-- ==== Sys2Proof/Word.lean ====
section
/-! DEFINITION. The widths of the machine's values: every value of this instruction set is an unsigned number
of one of these widths (00_scope.md R11). -/

namespace Sys2Proof

/-- A `u8`: a memory byte, a general register, a timer, an immediate `kk` (00_scope.md R11). -/
abbrev Byte := BitVec 8

/-- A `u16`: I, PC, a stack entry, an instruction word (10_state.md R34 to R36, 30_encoding.md R100). -/
abbrev Word := BitVec 16

/-- A `u12`: the field `nnn` (30_encoding.md R101). -/
abbrev Addr12 := BitVec 12

/-- A 4-bit unit of an instruction word; the field `n` (30_encoding.md R101). -/
abbrev Nibble := BitVec 4

/-- The number of a general register V0..VF, an index 0..15 (10_state.md R31). -/
abbrev Reg := Fin 16

/-- VF, the flag output (10_state.md R32). -/
abbrev VF : Reg := 15

end Sys2Proof
end

