-- ==== Sys2Proof/Decode.lean ====
section
/-! DEFINITION. The InstructionDecoder and the OpcodeTable (30_encoding.md): the fields of a word, the table of
patterns, classification, and the instruction a word stands for; then the encoder, from the same table. -/

namespace Sys2Proof

/-! ### Joining nibbles and bytes (00_scope.md R11: `(hi << 8) | lo`) -/

/-- Two nibbles as a byte, the left one first. -/
def joinNibbles (hi lo : Nibble) : Byte := hi.setWidth 8 <<< 4 ||| lo.setWidth 8

/-- Two bytes as a word, the most significant first (20_memory.md R76). -/
def joinBytes (hi lo : Byte) : Word := hi.setWidth 16 <<< 8 ||| lo.setWidth 16

/-- A nibble and a byte as a 12-bit address. -/
def joinAddr (hi : Nibble) (lo : Byte) : Addr12 := hi.setWidth 12 <<< 8 ||| lo.setWidth 12

/-- The register a nibble names (30_encoding.md R101: "register index"). -/
def regOfNibble (n : Nibble) : Reg := ⟨n.toNat, n.isLt⟩

/-- The nibble that names a register. -/
def nibbleOfReg (x : Reg) : Nibble := BitVec.ofNat 4 x.val

/-! ### Decoding: the fields of a word (30_encoding.md R101, R102) -/

/-- The five fields, all taken from every word whatever the operation (30_encoding.md R101). -/
structure Fields where
  nnn : Addr12
  n : Nibble
  x : Reg
  y : Reg
  kk : Byte
deriving DecidableEq, Repr

/-- `decode`: total, no failure mode (30_encoding.md R101, R102). -/
def fieldsOf (w : Word) : Fields where
  nnn := w.extractLsb' 0 12
  n := w.extractLsb' 0 4
  x := regOfNibble (w.extractLsb' 8 4)
  y := regOfNibble (w.extractLsb' 4 4)
  kk := w.extractLsb' 0 8

/-- The four nibbles n3 n2 n1 n0, from left to right (30_encoding.md R100). -/
def nibblesOf (w : Word) : List Nibble :=
  [w.extractLsb' 12 4, w.extractLsb' 8 4, w.extractLsb' 4 4, w.extractLsb' 0 4]

/-! ### Classification: the OpcodeTable (30_encoding.md R103, R104) -/

/-- The symbolic name of an operation, in the order of 30_encoding.md R104; `ret` is its tag `Return` (R110). -/
inductive Tag where
  | clearDisplay | ret | jump | call | skipEqVxKk | skipNeVxKk | skipEqVxVy | loadVxKk | addVxKk
  | loadVxVy | orVxVy | andVxVy | xorVxVy | addVxVy | subVxVy | shrVx | subnVxVy | shlVx | skipNeVxVy
  | loadI | jumpV0 | randVxKk | draw | skipKeyDown | skipKeyUp | loadVxDt | waitKey | loadDtVx | loadStVx
  | addIVx | loadFontVx | storeBcd | storeRegs | loadRegs
deriving DecidableEq, Repr

/-- A nibble-position matcher: a literal nibble or a field placeholder (30_encoding.md R103). -/
inductive Matcher where
  | lit (v : Nibble)
  | x
  | y
  | n
  | kk
  | nnn
deriving DecidableEq, Repr

/-- How many nibbles a matcher consumes (30_encoding.md R103). -/
def Matcher.width : Matcher → Nat
  | .lit _ => 1
  | .x => 1
  | .y => 1
  | .n => 1
  | .kk => 2
  | .nnn => 3

/-- "A rule matches iff every literal equals its nibble; placeholders match anything" (30_encoding.md R103). -/
def patternFits : List Matcher → List Nibble → Bool
  | [], ns => ns.isEmpty
  | .lit v :: ms, ns =>
    match ns with
    | [] => false
    | a :: rest => a == v && patternFits ms rest
  | m :: ms, ns => decide (m.width ≤ ns.length) && patternFits ms (ns.drop m.width)

/-- A row of the table: an ordered list of matchers and the tag (30_encoding.md R103). -/
structure Row where
  pattern : List Matcher
  tag : Tag
deriving DecidableEq, Repr

/-- Rows 1 to 9 (30_encoding.md R104). -/
def opcodeRows0to7 : List Row :=
  [ ⟨[.lit 0x0, .lit 0x0, .lit 0xE, .lit 0x0], .clearDisplay⟩,
    ⟨[.lit 0x0, .lit 0x0, .lit 0xE, .lit 0xE], .ret⟩,
    ⟨[.lit 0x1, .nnn], .jump⟩,
    ⟨[.lit 0x2, .nnn], .call⟩,
    ⟨[.lit 0x3, .x, .kk], .skipEqVxKk⟩,
    ⟨[.lit 0x4, .x, .kk], .skipNeVxKk⟩,
    ⟨[.lit 0x5, .x, .y, .lit 0x0], .skipEqVxVy⟩,
    ⟨[.lit 0x6, .x, .kk], .loadVxKk⟩,
    ⟨[.lit 0x7, .x, .kk], .addVxKk⟩ ]

/-- Rows 10 to 18 (30_encoding.md R104). -/
def opcodeRows8 : List Row :=
  [ ⟨[.lit 0x8, .x, .y, .lit 0x0], .loadVxVy⟩,
    ⟨[.lit 0x8, .x, .y, .lit 0x1], .orVxVy⟩,
    ⟨[.lit 0x8, .x, .y, .lit 0x2], .andVxVy⟩,
    ⟨[.lit 0x8, .x, .y, .lit 0x3], .xorVxVy⟩,
    ⟨[.lit 0x8, .x, .y, .lit 0x4], .addVxVy⟩,
    ⟨[.lit 0x8, .x, .y, .lit 0x5], .subVxVy⟩,
    ⟨[.lit 0x8, .x, .y, .lit 0x6], .shrVx⟩,
    ⟨[.lit 0x8, .x, .y, .lit 0x7], .subnVxVy⟩,
    ⟨[.lit 0x8, .x, .y, .lit 0xE], .shlVx⟩ ]

/-- Rows 19 to 25 (30_encoding.md R104). -/
def opcodeRows9toE : List Row :=
  [ ⟨[.lit 0x9, .x, .y, .lit 0x0], .skipNeVxVy⟩,
    ⟨[.lit 0xA, .nnn], .loadI⟩,
    ⟨[.lit 0xB, .nnn], .jumpV0⟩,
    ⟨[.lit 0xC, .x, .kk], .randVxKk⟩,
    ⟨[.lit 0xD, .x, .y, .n], .draw⟩,
    ⟨[.lit 0xE, .x, .lit 0x9, .lit 0xE], .skipKeyDown⟩,
    ⟨[.lit 0xE, .x, .lit 0xA, .lit 0x1], .skipKeyUp⟩ ]

/-- Rows 26 to 34 (30_encoding.md R104). -/
def opcodeRowsF : List Row :=
  [ ⟨[.lit 0xF, .x, .lit 0x0, .lit 0x7], .loadVxDt⟩,
    ⟨[.lit 0xF, .x, .lit 0x0, .lit 0xA], .waitKey⟩,
    ⟨[.lit 0xF, .x, .lit 0x1, .lit 0x5], .loadDtVx⟩,
    ⟨[.lit 0xF, .x, .lit 0x1, .lit 0x8], .loadStVx⟩,
    ⟨[.lit 0xF, .x, .lit 0x1, .lit 0xE], .addIVx⟩,
    ⟨[.lit 0xF, .x, .lit 0x2, .lit 0x9], .loadFontVx⟩,
    ⟨[.lit 0xF, .x, .lit 0x3, .lit 0x3], .storeBcd⟩,
    ⟨[.lit 0xF, .x, .lit 0x5, .lit 0x5], .storeRegs⟩,
    ⟨[.lit 0xF, .x, .lit 0x6, .lit 0x5], .loadRegs⟩ ]

/-- The OpcodeTable, in the order of 30_encoding.md R104. -/
def opcodeTable : List Row := opcodeRows0to7 ++ opcodeRows8 ++ opcodeRows9toE ++ opcodeRowsF

/-- `classify`: the tag of the first matching row, or none for an illegal word (30_encoding.md R103, R106). -/
def classify (w : Word) : Option Tag :=
  (opcodeTable.find? fun r => patternFits r.pattern (nibblesOf w)).map Row.tag

/-! ### The same table as masks and match values (30_encoding.md R103, R104) -/

/-- The mask of a pattern: 0xF in every literal nibble and 0x0 in every placeholder nibble (30_encoding.md R103). -/
def patternMask : List Matcher → Nat
  | [] => 0
  | .lit _ :: ms => 0xF * 16 ^ (ms.map Matcher.width).sum + patternMask ms
  | _ :: ms => patternMask ms

/-- The match value of a pattern: the literals (30_encoding.md R103). -/
def patternValue : List Matcher → Nat
  | [] => 0
  | .lit v :: ms => v.toNat * 16 ^ (ms.map Matcher.width).sum + patternValue ms
  | _ :: ms => patternValue ms

/-- The row matches the word by its mask and match value (30_encoding.md R103: `(w & row.mask) = row.match`). -/
def Row.maskMatches (r : Row) (w : Word) : Bool :=
  w &&& BitVec.ofNat 16 (patternMask r.pattern) == BitVec.ofNat 16 (patternValue r.pattern)

/-! ### The instruction a word stands for -/

/-- The instruction of a tag, with the fields its pattern names (30_encoding.md R101, R104). -/
def instrOf (t : Tag) (f : Fields) : Instr :=
  match t with
  | .clearDisplay => .cls
  | .ret => .ret
  | .jump => .jp f.nnn
  | .call => .call f.nnn
  | .skipEqVxKk => .seImm f.x f.kk
  | .skipNeVxKk => .sneImm f.x f.kk
  | .skipEqVxVy => .seReg f.x f.y
  | .loadVxKk => .ldImm f.x f.kk
  | .addVxKk => .addImm f.x f.kk
  | .loadVxVy => .ldReg f.x f.y
  | .orVxVy => .orReg f.x f.y
  | .andVxVy => .andReg f.x f.y
  | .xorVxVy => .xorReg f.x f.y
  | .addVxVy => .addReg f.x f.y
  | .subVxVy => .subReg f.x f.y
  | .shrVx => .shr f.x f.y
  | .subnVxVy => .subnReg f.x f.y
  | .shlVx => .shl f.x f.y
  | .skipNeVxVy => .sneReg f.x f.y
  | .loadI => .ldI f.nnn
  | .jumpV0 => .jpV0 f.nnn
  | .randVxKk => .rnd f.x f.kk
  | .draw => .drw f.x f.y f.n
  | .skipKeyDown => .skp f.x
  | .skipKeyUp => .sknp f.x
  | .loadVxDt => .ldVxDt f.x
  | .waitKey => .ldVxK f.x
  | .loadDtVx => .ldDtVx f.x
  | .loadStVx => .ldStVx f.x
  | .addIVx => .addIVx f.x
  | .loadFontVx => .ldFVx f.x
  | .storeBcd => .ldBVx f.x
  | .storeRegs => .stRegs f.x
  | .loadRegs => .ldRegs f.x

/-- The instruction a word stands for, or none for an illegal word (30_encoding.md R103, R106). -/
def decode (w : Word) : Option Instr := (classify w).map fun t => instrOf t (fieldsOf w)

/-- Why a run of bytes is no instruction. -/
inductive Reject where
  /-- No row matches the word (30_encoding.md R106). -/
  | illegal (w : Word)
  /-- Fewer than the two bytes of an instruction (30_encoding.md R108). -/
  | tooShort
deriving DecidableEq, Repr

/-- The instruction at the head of a run of bytes, big-endian, and the bytes after it (20_memory.md R76). -/
def decodeBytes : List Byte → Except Reject (Instr × List Byte)
  | hi :: lo :: rest =>
    match decode (joinBytes hi lo) with
    | some i => .ok (i, rest)
    | none => .error (.illegal (joinBytes hi lo))
  | _ => .error .tooShort

/-! ### The encoder (30_encoding.md R104) -/

/-- A word of the form `op nnn`. -/
def wordNnn (op : Nibble) (nnn : Addr12) : Word :=
  joinBytes (joinNibbles op (nnn.extractLsb' 8 4)) (nnn.extractLsb' 0 8)

/-- A word of the form `op x kk`; with `kk` a literal, of the forms `Ex..` and `Fx..`. -/
def wordXkk (op : Nibble) (x : Reg) (kk : Byte) : Word := joinBytes (joinNibbles op (nibbleOfReg x)) kk

/-- A word of the form `op x y n`. -/
def wordXyn (op : Nibble) (x y : Reg) (n : Nibble) : Word :=
  joinBytes (joinNibbles op (nibbleOfReg x)) (joinNibbles (nibbleOfReg y) n)

/-- The word of an instruction (30_encoding.md R104, column "pattern"). -/
def encode : Instr → Word
  | .cls => 0x00E0
  | .ret => 0x00EE
  | .jp nnn => wordNnn 0x1 nnn
  | .call nnn => wordNnn 0x2 nnn
  | .seImm x kk => wordXkk 0x3 x kk
  | .sneImm x kk => wordXkk 0x4 x kk
  | .seReg x y => wordXyn 0x5 x y 0x0
  | .ldImm x kk => wordXkk 0x6 x kk
  | .addImm x kk => wordXkk 0x7 x kk
  | .ldReg x y => wordXyn 0x8 x y 0x0
  | .orReg x y => wordXyn 0x8 x y 0x1
  | .andReg x y => wordXyn 0x8 x y 0x2
  | .xorReg x y => wordXyn 0x8 x y 0x3
  | .addReg x y => wordXyn 0x8 x y 0x4
  | .subReg x y => wordXyn 0x8 x y 0x5
  | .shr x y => wordXyn 0x8 x y 0x6
  | .subnReg x y => wordXyn 0x8 x y 0x7
  | .shl x y => wordXyn 0x8 x y 0xE
  | .sneReg x y => wordXyn 0x9 x y 0x0
  | .ldI nnn => wordNnn 0xA nnn
  | .jpV0 nnn => wordNnn 0xB nnn
  | .rnd x kk => wordXkk 0xC x kk
  | .drw x y n => wordXyn 0xD x y n
  | .skp x => wordXkk 0xE x 0x9E
  | .sknp x => wordXkk 0xE x 0xA1
  | .ldVxDt x => wordXkk 0xF x 0x07
  | .ldVxK x => wordXkk 0xF x 0x0A
  | .ldDtVx x => wordXkk 0xF x 0x15
  | .ldStVx x => wordXkk 0xF x 0x18
  | .addIVx x => wordXkk 0xF x 0x1E
  | .ldFVx x => wordXkk 0xF x 0x29
  | .ldBVx x => wordXkk 0xF x 0x33
  | .stRegs x => wordXkk 0xF x 0x55
  | .ldRegs x => wordXkk 0xF x 0x65

/-! ### A word of the opcode table -/

/-- The two bytes of the word whose low `nbits` bits are those of `w`, the byte at the lower address first
(20_memory.md R76). -/
def tableBytes (nbits w : Nat) : List Byte :=
  let word := BitVec.ofNat 16 (w % 2 ^ nbits)
  [word.extractLsb' 8 8, word.extractLsb' 0 8]

/-- The instruction this decoder reads from a word numbered as the opcode table numbers it. -/
def decodeTableWord (nbits w : Nat) : Option Instr :=
  match decodeBytes (tableBytes nbits w) with
  | .ok (i, _) => some i
  | .error _ => none

end Sys2Proof
end

