-- ==== Sys2Proof/Config.lean ====
section
/-! DEFINITION. The parameters the spec leaves to the implementation (00_scope.md R8, R9), and the free values of
the environment's inputs. A `Config` is plain data held by the state, so every statement about all states holds for
every choice of the parameters; no step writes it (log 5). The default choice is in Machine/Defaults.lean. -/

namespace Sys2Proof

/-- `RESERVED_WRITE_POLICY`: what an instruction's write into 0x000..0x1FF does (20_memory.md R74). -/
inductive ReservedWritePolicy where
  | fault
  | permit
deriving DecidableEq, Repr

/-- `SHIFT_SOURCE`: which register 8xy6 and 8xyE shift (41_register_alu.md R171, R173). -/
inductive ShiftSource where
  | vx
  | vy
deriving DecidableEq, Repr

/-- The implementation parameters of 00_scope.md R8 on which a rule depends. -/
structure Config where
  /-- `FONT_BASE`, with `FONT_BASE + 80 ≤ 0x200` (70_reset_and_hazards.md R323): 0 to 432. -/
  fontBase : Fin 433
  /-- `FONT`: 16 glyphs of 5 bytes (43_display.md R243). -/
  font : Vector Byte 80
  /-- `DEBOUNCE_WINDOW`, in milliseconds (44_input.md R262). -/
  debounceWindow : Nat
  /-- `RESERVED_WRITE_POLICY` (20_memory.md R74). -/
  reservedWrite : ReservedWritePolicy
  /-- `SHIFT_SOURCE` (41_register_alu.md R171, R173). -/
  shiftSource : ShiftSource
  /-- `LOADSTORE_I_INCREMENT` (42_index_memory.md R204, R205). -/
  loadStoreIncrement : Bool
deriving DecidableEq, Repr

/-- FREE VALUE: the random byte of the k-th Executor step whose inputs the schedule does not name
(41_register_alu.md R174: "a free u8 draw of the step, under no law"; log 1). -/
opaque Config.freeDraw : Nat → Byte

/-- FREE VALUE: the time that passes before the k-th Executor step whose inputs the schedule does not name
(44_input.md R263: the step's `now` is supplied by the environment and never decreases; log 1). -/
opaque Config.freeElapsed : Nat → Nat

end Sys2Proof
end

