-- ==== Sys2Proof/Machine/Defaults.lean ====
section
/-! DEFINITION. The default values of the parameters (00_scope.md R8), among them the conventional font
(43_display.md R243). Only the state after reset uses them; no step does (log 5, 6). -/

namespace Sys2Proof

/-- The conventional font, glyphs 0 to F, five rows each, row 0 first (43_display.md R243; PRESUMED, log 6). -/
def canonicalFont : Vector Byte 80 :=
  #v[0xF0, 0x90, 0x90, 0x90, 0xF0,
     0x20, 0x60, 0x20, 0x20, 0x70,
     0xF0, 0x10, 0xF0, 0x80, 0xF0,
     0xF0, 0x10, 0xF0, 0x10, 0xF0,
     0x90, 0x90, 0xF0, 0x10, 0x10,
     0xF0, 0x80, 0xF0, 0x10, 0xF0,
     0xF0, 0x80, 0xF0, 0x90, 0xF0,
     0xF0, 0x10, 0x20, 0x40, 0x40,
     0xF0, 0x90, 0xF0, 0x90, 0xF0,
     0xF0, 0x90, 0xF0, 0x10, 0xF0,
     0xF0, 0x90, 0xF0, 0x90, 0x90,
     0xE0, 0x90, 0xE0, 0x90, 0xE0,
     0xF0, 0x80, 0x80, 0x80, 0xF0,
     0xE0, 0x90, 0x90, 0x90, 0xE0,
     0xF0, 0x80, 0xF0, 0x80, 0xF0,
     0xF0, 0x80, 0xF0, 0x80, 0x80]

/-- The default of every parameter (00_scope.md R8; DESIGN CHOICE, log 5). -/
def Config.default : Config where
  fontBase := 0x000
  font := canonicalFont
  debounceWindow := 100
  reservedWrite := .fault
  shiftSource := .vx
  loadStoreIncrement := false

end Sys2Proof
end

