-- ==== Sys2Proof/Machine/State.lean ====
section
/-! DEFINITION. The state of the core (10_state.md R30), the parameters and the environment's inputs it runs
under, the reasons a step can stop, and the state at creation (10_state.md R44, 70_reset_and_hazards.md R320).
All of it is plain data. -/

namespace Sys2Proof.Machine

/-- Why an operand value lies outside the domain of its operation (60_exceptions.md R281, row 7). -/
inductive OperandReason where
  /-- `Dxy0` (43_display.md R241). -/
  | emptySprite
  /-- A key index above 15, with the value (44_input.md R268). -/
  | keyIndex (value : Byte)
deriving DecidableEq, Repr

/-- A cause of a halt with the information recorded beside it (60_exceptions.md R281). Addresses are natural
numbers, since a data address is not truncated to 16 bits (20_memory.md R75). -/
inductive Cause where
  /-- Code 1: a fetched word that matches no row; the word is surfaced (R282). -/
  | illegalOpcode (word : Word)
  /-- Code 2: 2nnn with 16 live entries (R283). -/
  | stackOverflow (word : Word)
  /-- Code 3: 00EE with no live entry (R284). -/
  | stackUnderflow (word : Word)
  /-- Code 4: an address at or above 0x1000, the first one that fails, and the word if one was fetched (R285). -/
  | addressOutOfRange (addr : Nat) (word : Option Word)
  /-- Code 5: a fetch from an odd PC; no word was fetched (R286). -/
  | misalignedPC
  /-- Code 6: an instruction's write to the reserved region, the first address that fails (R287). -/
  | reservedWrite (addr : Nat) (word : Word)
  /-- Code 7: an operand value outside the operation's domain (R288). -/
  | undefinedOperand (reason : OperandReason) (word : Word)
deriving DecidableEq, Repr

/-- STATUS (10_state.md R42): running, or halted with the cause, its information, and the address of the
instruction that failed (60_exceptions.md R281). -/
inductive Status where
  | running
  | halted (cause : Cause) (pc : Word)
deriving DecidableEq, Repr

/-- One atomic step of one agent (60_exceptions.md R300, R301). -/
inductive Turn where
  /-- The Executor's step, with the timestamp and the random byte the environment gives it. -/
  | executor (now : Nat) (draw : Byte)
  /-- `tick_timers()`, by the timer driver (60_exceptions.md R295). -/
  | tick
  /-- `record_press(key, time)`, by the input source (44_input.md R261). -/
  | press (key time : Nat)
  /-- `present()`, by the presentation (43_display.md R237). -/
  | present
deriving DecidableEq, Repr

/-- The MODEL's own fields: the environment's inputs as plain data (log 1, 2, 3). -/
structure Env where
  /-- The timestamp `now` of the Executor step being applied, in milliseconds (44_input.md R263). -/
  now : Nat
  /-- The random byte `r` of the Executor step being applied (41_register_alu.md R174). -/
  draw : Byte
  /-- How many Executor steps took free inputs: the argument of the free values. -/
  turns : Nat
  /-- Which agent moves next, oldest first; when the list is empty the Executor moves, with free inputs. -/
  schedule : List Turn
deriving DecidableEq, Repr

/-- A plane of 32 rows of 64 pixels; bit x of row y is the pixel (x, y), 1 for set (10_state.md R40). -/
abbrev Plane := Vector (BitVec 64) 32

/-- The state of the core (10_state.md R30), with the parameters and the environment's inputs. -/
structure State where
  /-- V0..VF (10_state.md R31). -/
  v : Vector Byte 16
  /-- The index register (10_state.md R34). -/
  i : Word
  /-- The program counter (10_state.md R35). -/
  pc : Word
  /-- The call stack (10_state.md R36). -/
  stack : Vector Word 16
  /-- The number of live stack entries, 0 to 16 (10_state.md R36). -/
  sp : Fin 17
  /-- The delay timer (10_state.md R37). -/
  dt : Byte
  /-- The sound timer (10_state.md R37). -/
  st : Byte
  /-- Memory, in canonical form (10_state.md R39; Machine/Ops.lean). -/
  mem : List Host.Cell
  /-- The in-progress plane (10_state.md R40). -/
  back : Plane
  /-- The last composited plane (10_state.md R40). -/
  front : Plane
  /-- A redraw is warranted (10_state.md R38, R40). -/
  dirty : Bool
  /-- The time of each key's most recent press (10_state.md R41). -/
  lastPress : Vector (Option Nat) 16
  /-- The run status (10_state.md R42). -/
  status : Status
  /-- The parameters, written by no step (00_scope.md R8). -/
  cfg : Config
  /-- The environment's inputs (60_exceptions.md R301). -/
  env : Env
deriving DecidableEq, Repr

/-- Why a step faults. -/
inductive Fault where
  /-- Raised by `step` when it is the Executor's turn and the core is halted: "After a halt the Executor has no step"
  (60_exceptions.md R290). It carries the halt record. Safe: nothing is claimed to happen. -/
  | halted (cause : Cause) (pc : Word)
deriving DecidableEq, Repr

/-- Why a step, or the loader, refuses. -/
inductive Refusal where
  /-- An instruction with no meaning yet, by its mnemonic; raised by `exec` only (no arm does at present). Safe. -/
  | notModelled (mnemonic : String)
  /-- Raised by `step` for a turn whose timestamp goes back: such a host has no move (92_eei_decisions.md D24; log 4).
  Safe: the run ends there. -/
  | hostClock
  /-- Raised by `State.create` for a program of more than 3584 bytes (70_reset_and_hazards.md R324). Safe. -/
  | programTooLong
deriving DecidableEq, Repr

/-- What an instruction or a step answers. -/
abbrev Outcome := Host.Outcome State Fault Refusal

/-- The core after creation with no program, for one choice of the parameters (10_state.md R44,
70_reset_and_hazards.md R320). Memory lists nothing: an unlisted address reads as the font or as zero. -/
def State.created (c : Config) : State where
  v := Vector.replicate 16 0
  i := 0
  pc := 0x200
  stack := Vector.replicate 16 0
  sp := 0
  dt := 0
  st := 0
  mem := []
  back := Vector.replicate 32 0
  front := Vector.replicate 32 0
  dirty := false
  lastPress := Vector.replicate 16 none
  status := .running
  cfg := c
  env := { now := 0, draw := 0, turns := 0, schedule := [] }

/-- The core right after creation, with the default parameters (70_reset_and_hazards.md R320, 00_scope.md R8). -/
def State.reset : State := State.created Config.default

end Sys2Proof.Machine
end

