-- ==== Sys2Proof/Machine/Ops.lean ====
section
/-! DEFINITION. The named operations over memory, registers, the program counter and the stack, the checks of an
access, and the entry into a halt (10_state.md, 20_memory.md, 60_exceptions.md). -/

namespace Sys2Proof.Machine

/-! ### Memory (20_memory.md) -/

/-- `MEM_SIZE` (00_scope.md R8). -/
def memSize : Nat := 0x1000

/-- The first address above the reserved region 0x000..0x1FF, `PROGRAM_START` (00_scope.md R8). -/
def programStart : Nat := 0x200

/-- What an address reads as at creation, and so what an unlisted address reads as: the font at FONT_BASE, zero
elsewhere (10_state.md R44). -/
def Memory.unlisted (c : Config) (a : Nat) : Byte :=
  if h : c.fontBase.val ≤ a ∧ a < c.fontBase.val + 80 then c.font[a - c.fontBase.val] else 0

/-- The byte listed at an address, if one is. -/
def Memory.lookup : List Host.Cell → Nat → Option Byte
  | [], _ => none
  | (k, b) :: rest, a => if a = k then some b else Memory.lookup rest a

/-- `MEM[a]`. -/
def Memory.read (c : Config) (m : List Host.Cell) (a : Nat) : Byte :=
  (Memory.lookup m a).getD (Memory.unlisted c a)

/-- List a byte at its place in a rising list, over what stood there. -/
def Memory.insert (a : Nat) (b : Byte) : List Host.Cell → List Host.Cell
  | [] => [(a, b)]
  | (k, d) :: rest =>
    if a < k then (a, b) :: (k, d) :: rest
    else if a = k then (a, b) :: rest
    else (k, d) :: Memory.insert a b rest

/-- `MEM[a] <- b`, keeping the canonical form. -/
def Memory.write (c : Config) (m : List Host.Cell) (a : Nat) (b : Byte) : List Host.Cell :=
  if b = Memory.unlisted c a then m.filter (fun cell => cell.1 != a) else Memory.insert a b m

/-- The canonical form: addresses strictly rising and inside memory, no entry equal to what the address would read
as unlisted. -/
abbrev Memory.wf (c : Config) (m : List Host.Cell) : Prop :=
  m.Pairwise (fun p q => p.1 < q.1) ∧ ∀ cell ∈ m, cell.1 < memSize ∧ cell.2 ≠ Memory.unlisted c cell.1

/-- `MEM[a]`, with no check. -/
def State.readByte (s : State) (a : Nat) : Byte := Memory.read s.cfg s.mem a

/-- `MEM[a] <- b`, with no check. -/
def State.writeByte (s : State) (a : Nat) (b : Byte) : State := { s with mem := Memory.write s.cfg s.mem a b }

/-- The bytes at `a`, `a + 1`, … (20_memory.md R79: byte accesses at increasing addresses). -/
def State.readBytes (s : State) (a : Nat) : Nat → List Byte
  | 0 => []
  | n + 1 => s.readByte a :: s.readBytes (a + 1) n

/-- Bytes written at `a`, `a + 1`, … (20_memory.md R79). -/
def State.writeBytes (s : State) (a : Nat) : List Byte → State
  | [] => s
  | b :: rest => (s.writeByte a b).writeBytes (a + 1) rest

/-! ### The checks of an access (20_memory.md R73, R74, R81) -/

/-- Why an access fails, with the address that fails first. -/
inductive AccessFault where
  | outOfRange (addr : Nat)
  | reserved (addr : Nat)
deriving DecidableEq, Repr

/-- The first of the `n` addresses from `a` on that fails a check. -/
def firstFailing (bad : Nat → Bool) (a : Nat) : Nat → Option Nat
  | 0 => none
  | n + 1 => if bad a then some a else firstFailing bad (a + 1) n

/-- The check of `MemRead` for each of `n` addresses (20_memory.md R73). -/
def checkRead (a n : Nat) : Option AccessFault :=
  (firstFailing (fun k => memSize ≤ k) a n).map .outOfRange

/-- The checks of `MemWrite` for each of `n` addresses, the range of every one before the reserved region
(20_memory.md R74, 60_exceptions.md R291). -/
def checkWrite (c : Config) (a n : Nat) : Option AccessFault :=
  match firstFailing (fun k => memSize ≤ k) a n with
  | some k => some (.outOfRange k)
  | none =>
    match c.reservedWrite with
    | .permit => none
    | .fault => (firstFailing (fun k => k < programStart) a n).map .reserved

/-- The cause an access fault halts with, for the instruction word `w` (60_exceptions.md R281). -/
def AccessFault.cause (w : Word) : AccessFault → Cause
  | .outOfRange a => .addressOutOfRange a (some w)
  | .reserved a => .reservedWrite a w

/-! ### Halt entry (60_exceptions.md R289) -/

/-- The code of a cause (60_exceptions.md R281). -/
def Cause.code : Cause → Nat
  | .illegalOpcode _ => 1
  | .stackOverflow _ => 2
  | .stackUnderflow _ => 3
  | .addressOutOfRange _ _ => 4
  | .misalignedPC => 5
  | .reservedWrite _ _ => 6
  | .undefinedOperand _ _ => 7

/-- The state after a cause is raised: STATUS, with the cause and the PC of the failing instruction, and nothing
else (60_exceptions.md R289). There is no return from it (60_exceptions.md R293). -/
def State.halt (s : State) (c : Cause) : State := { s with status := .halted c s.pc }

/-- `raise`: taking a halt, the one exception mechanism of the core (60_exceptions.md R280, R289; log 8). -/
def State.raise (s : State) (c : Cause) : Outcome := .next (s.halt c)

/-- Run an access's effect if its check passes, and halt otherwise, with nothing done (20_memory.md R81). -/
def State.guarded (s : State) (check : Option AccessFault) (w : Word) (effect : State) : Outcome :=
  match check with
  | some f => s.raise (f.cause w)
  | none => .next effect

/-! ### Registers, the program counter and the stack (10_state.md R31, R35, R36) -/

/-- `V[x]`. -/
def State.readV (s : State) (x : Reg) : Byte := s.v[x]

/-- `V[x] <- b`. -/
def State.writeV (s : State) (x : Reg) (b : Byte) : State := { s with v := s.v.set x b }

/-- `I <- a`. -/
def State.setI (s : State) (a : Word) : State := { s with i := a }

/-- `PC <- a`. -/
def State.setPc (s : State) (a : Word) : State := { s with pc := a }

/-- Advance: `PC <- (PC + 2) mod 2^16` (40_control_flow.md R130, R131). -/
def State.advance (s : State) : State := s.setPc (s.pc + 2)

/-- A conditional skip: `PC + 4` when taken, `PC + 2` when not (40_control_flow.md R136 to R139). -/
def State.skipIf (s : State) (taken : Bool) : State := s.setPc (if taken then s.pc + 4 else s.pc + 2)

/-- `STACK[SP] <- a; SP <- SP + 1`, when fewer than 16 entries are live (40_control_flow.md R134). -/
def State.push (s : State) (a : Word) (room : s.sp.val < 16) : State :=
  { s with stack := s.stack.set s.sp.val a room, sp := ⟨s.sp.val + 1, by omega⟩ }

/-- `STACK[SP - 1]`, the most recent live entry, when one is live (10_state.md R36). -/
def State.top (s : State) (live : 0 < s.sp.val) : Word :=
  s.stack[s.sp.val - 1]'(by have := s.sp.isLt; omega)

/-- `SP <- SP - 1`; the entry is not cleared (40_control_flow.md R135). -/
def State.drop (s : State) : State :=
  { s with sp := ⟨s.sp.val - 1, by have := s.sp.isLt; omega⟩ }

/-- `DT <- b`. -/
def State.setDt (s : State) (b : Byte) : State := { s with dt := b }

/-- `ST <- b`. -/
def State.setSt (s : State) (b : Byte) : State := { s with st := b }

/-- `V[k] <- MEM[a + k]` for every `k` from 0 to `x`, other registers unchanged (42_index_memory.md R205). -/
def State.loadBlock (s : State) (a : Nat) (x : Reg) : State :=
  { s with v := Vector.ofFn fun k : Fin 16 => if k ≤ x then s.readByte (a + k.val) else s.v[k] }

/-- `V[0], …, V[x]` in order (42_index_memory.md R204). -/
def State.blockRegs (s : State) (x : Reg) : List Byte := s.v.toList.take (x.val + 1)

/-! ### Fetch (20_memory.md R76) -/

/-- `Fetch(pc)`: the word at the PC, most significant byte first, or the cause it raises: the alignment is checked
before the range (20_memory.md R76, 60_exceptions.md R291). -/
def State.fetch (s : State) : Except Cause Word :=
  if s.pc.toNat % 2 = 1 then .error .misalignedPC
  else if memSize ≤ s.pc.toNat + 1 then .error (.addressOutOfRange s.pc.toNat none)
  else .ok (joinBytes (s.readByte s.pc.toNat) (s.readByte (s.pc.toNat + 1)))

end Sys2Proof.Machine
end

