-- ==== Sys2Proof/Machine/Operands.lean ====
section
/-! DEFINITION. How an instruction finds its operands: immediates and addresses brought to a register's width, the
register a shift reads, the address of a data byte, of a glyph and of a jump, the digits of a byte
(40_control_flow.md, 41_register_alu.md, 42_index_memory.md). -/

namespace Sys2Proof.Machine

/-- `zext_16(nnn)` (00_scope.md R11, 30_encoding.md R101). -/
def zextAddr (nnn : Addr12) : Word := nnn.setWidth 16

/-- The effective address of byte `k` of a data access, `I + k` on natural numbers (20_memory.md R75,
42_index_memory.md R206). -/
def State.dataAddr (s : State) (k : Nat) : Nat := s.i.toNat + k

/-- The operand of a shift: V[x], or V[y] where SHIFT_SOURCE says so (41_register_alu.md R171, R173). -/
def State.shiftOperand (s : State) (x y : Reg) : Byte :=
  match s.cfg.shiftSource with
  | .vx => s.readV x
  | .vy => s.readV y

/-- `FONT_BASE + 5 × (V[x] & 0xF)` (42_index_memory.md R202). -/
def State.glyphAddr (s : State) (x : Reg) : Word :=
  BitVec.ofNat 16 (s.cfg.fontBase.val + 5 * (s.readV x &&& 0xF).toNat)

/-- The target of a jump with offset: `zext_16(nnn) + V[0]`, not reduced modulo 4096 (40_control_flow.md R140). -/
def State.offsetTarget (s : State) (nnn : Addr12) : Word := zextAddr nnn + (s.readV 0).setWidth 16

/-- `(I + V[x]) mod 2^16` (42_index_memory.md R201). -/
def State.indexPlus (s : State) (x : Reg) : Word := s.i + (s.readV x).setWidth 16

/-- The hundreds, tens and ones digits of a byte (42_index_memory.md R203). -/
def bcdDigits (b : Byte) : List Byte :=
  [BitVec.ofNat 8 (b.toNat / 100), BitVec.ofNat 8 (b.toNat / 10 % 10), BitVec.ofNat 8 (b.toNat % 10)]

/-- I after Fx55 or Fx65: `(I + x + 1) mod 2^16` if LOADSTORE_I_INCREMENT, else unchanged
(42_index_memory.md R204, R205). -/
def State.indexAfterBlock (s : State) (x : Reg) : Word :=
  if s.cfg.loadStoreIncrement then s.i + BitVec.ofNat 16 (x.val + 1) else s.i

end Sys2Proof.Machine
end

