-- ==== Sys2Proof/Machine/ControlFlow.lean ====
section
/-! DEFINITION. Jumps, call, return and the conditional skips (40_control_flow.md). Each sets the PC itself
(40_control_flow.md R131). -/

namespace Sys2Proof.Machine

/-- `1nnn` JP nnn (40_control_flow.md R133). -/
def execJp (nnn : Addr12) (s : State) : Outcome := .next (s.setPc (zextAddr nnn))

/-- `2nnn` CALL nnn: the return address is that of the next instruction (40_control_flow.md R134). -/
def execCall (nnn : Addr12) (s : State) : Outcome :=
  if room : s.sp.val < 16 then .next ((s.push (s.pc + 2) room).setPc (zextAddr nnn))
  else s.raise (.stackOverflow (encode (.call nnn)))

/-- `00EE` RET: the popped value is used as is (40_control_flow.md R135). -/
def execRet (s : State) : Outcome :=
  if live : 0 < s.sp.val then .next (s.drop.setPc (s.top live))
  else s.raise (.stackUnderflow (encode .ret))

/-- `Bnnn` JP V0, nnn (40_control_flow.md R140). -/
def execJpV0 (nnn : Addr12) (s : State) : Outcome := .next (s.setPc (s.offsetTarget nnn))

/-- `3xkk` SE Vx, kk (40_control_flow.md R136). -/
def execSeImm (x : Reg) (kk : Byte) (s : State) : Outcome := .next (s.skipIf (s.readV x == kk))

/-- `4xkk` SNE Vx, kk (40_control_flow.md R137). -/
def execSneImm (x : Reg) (kk : Byte) (s : State) : Outcome := .next (s.skipIf (s.readV x != kk))

/-- `5xy0` SE Vx, Vy (40_control_flow.md R138). -/
def execSeReg (x y : Reg) (s : State) : Outcome := .next (s.skipIf (s.readV x == s.readV y))

/-- `9xy0` SNE Vx, Vy (40_control_flow.md R139). -/
def execSneReg (x y : Reg) (s : State) : Outcome := .next (s.skipIf (s.readV x != s.readV y))

end Sys2Proof.Machine
end

