-- ==== Sys2Proof/Machine/DisplayBuffer.lean ====
section
/-! DEFINITION. The DisplayBuffer's operations (43_display.md R230 to R238): pixels, clear, the XOR blit with
collision, present. -/

namespace Sys2Proof.Machine

/-- A pixel of a plane; coordinates wrap modulo 64 and 32 (43_display.md R230, R238). -/
def Plane.pixel (p : Plane) (x y : Nat) : Bool := (p[y % 32]'(Nat.mod_lt _ (by decide))).getLsbD (x % 64)

/-- A plane with one pixel written; coordinates wrap. -/
def Plane.setPixel (p : Plane) (x y : Nat) (b : Bool) : Plane :=
  let row := p[y % 32]'(Nat.mod_lt _ (by decide))
  let bit : BitVec 64 := 1#64 <<< (x % 64)
  p.set (y % 32) (if b then row ||| bit else row &&& ~~~bit) (Nat.mod_lt _ (by decide))

/-- A plane of unset pixels. -/
def Plane.blank : Plane := Vector.replicate 32 0

/-- A plane being drawn on and whether a collision has been seen. -/
structure Blit where
  plane : Plane
  collided : Bool
deriving DecidableEq, Repr

/-- One touched pixel: `BACK <- old ^ bit`, a collision iff both were 1 (43_display.md R233, R235). -/
def Blit.pixel (a : Blit) (px py : Nat) (bit : Bool) : Blit :=
  let old := a.plane.pixel px py
  { plane := a.plane.setPixel px py (old ^^ bit), collided := a.collided || (old && bit) }

/-- The columns `c`, …, 7 of one sprite row at row `py`, given how many are left; bit 7 is the leftmost pixel
(43_display.md R233, R234). -/
def Blit.columns (x0 py : Nat) (row : Byte) : Nat → Nat → Blit → Blit
  | _, 0, a => a
  | c, left + 1, a =>
    Blit.columns x0 py row (c + 1) left (a.pixel ((x0 + c) % 64) py (row.getLsbD (7 - c)))

/-- The rows of a sprite from row `y` down (43_display.md R233). -/
def Blit.rows (x0 : Nat) : Nat → List Byte → Blit → Blit
  | _, [], a => a
  | y, row :: rest, a => Blit.rows x0 (y + 1) rest (Blit.columns x0 (y % 32) row 0 8 a)

/-- `DrawSprite(x0, y0, rows)` on a plane: the new plane and the collision bit (43_display.md R233). -/
def drawSprite (p : Plane) (x0 y0 : Nat) (rows : List Byte) : Blit :=
  Blit.rows x0 y0 rows { plane := p, collided := false }

/-- BACK with a sprite drawn, DIRTY set (43_display.md R233, R236). -/
def State.drawBack (s : State) (x0 y0 : Nat) (rows : List Byte) : State :=
  { s with back := (drawSprite s.back x0 y0 rows).plane, dirty := true }

/-- `ClearBack()`: BACK all 0, DIRTY set; FRONT is not changed (43_display.md R232). -/
def State.clearBack (s : State) : State := { s with back := Plane.blank, dirty := true }

/-- `present()`: whether a redraw was warranted, and FRONT a copy of BACK with DIRTY cleared (43_display.md R237). -/
def State.present (s : State) : Bool × State := (s.dirty, { s with front := s.back, dirty := false })

/-- Which plane a pixel is read from: "presentation reads front; drawing reads back" (43_display.md R238). -/
inductive PlaneName where
  | front
  | back
deriving DecidableEq, Repr

/-- `get_pixel(x, y)` (43_display.md R238). -/
def State.getPixel (s : State) (which : PlaneName) (x y : Nat) : Bool :=
  match which with
  | .front => Plane.pixel s.front x y
  | .back => Plane.pixel s.back x y

end Sys2Proof.Machine
end

