-- ==== Sys2Proof/Machine/Flags.lean ====
section
/-! DEFINITION. The flag computations of the ALU and the write of the flag to VF (10_state.md R32,
41_register_alu.md R160 to R173). -/

namespace Sys2Proof.Machine

/-- A flag as the byte VF receives. -/
def flagByte (f : Bool) : Byte := if f then 1 else 0

/-- The carry of an addition: `a + b >= 256` (41_register_alu.md R169). -/
def carryOut (a b : Byte) : Bool := 256 ≤ a.toNat + b.toNat

/-- "VF=1 means no borrow occurred" in `a - b`: `a >= b` (41_register_alu.md R170, R172). -/
def noBorrow (a b : Byte) : Bool := b.toNat ≤ a.toNat

/-- The bit a right shift shifts out, `s & 1` (41_register_alu.md R171). -/
def shiftedOutRight (b : Byte) : Bool := b.getLsbD 0

/-- The bit a left shift shifts out, `s >> 7` (41_register_alu.md R173). -/
def shiftedOutLeft (b : Byte) : Bool := b.getLsbD 7

/-- `VF <- flag` (10_state.md R32). -/
def State.writeFlag (s : State) (f : Bool) : State := s.writeV VF (flagByte f)

/-- A result to V[x], then the flag to VF: with x = F the flag is what remains (41_register_alu.md R162). -/
def State.writeResultFlag (s : State) (x : Reg) (result : Byte) (f : Bool) : State :=
  (s.writeV x result).writeFlag f

end Sys2Proof.Machine
end

