-- ==== Sys2Proof/WellFormed.lean ====
section
/-! DEFINITION. Which instructions have operands the spec gives the operation a meaning for, whatever the state.
The operand types already hold every field to its width, so one check is left: the sprite's row count is 1 to 15
(43_display.md R234, R241). `Dxy0` still decodes, and executing it halts (30_encoding.md R107; log 14). -/

namespace Sys2Proof

/-- The row count of a sprite: "paired with a row count (1–15)" (43_display.md R234). -/
def spriteRowsOk (n : Nibble) : Bool := n != 0

/-- The operands lie in the domain the operation is defined for (30_encoding.md R107, 43_display.md R241). -/
def Instr.wellFormed : Instr → Bool
  | .cls => true
  | .ret => true
  | .jp _ => true
  | .call _ => true
  | .seImm _ _ => true
  | .sneImm _ _ => true
  | .seReg _ _ => true
  | .ldImm _ _ => true
  | .addImm _ _ => true
  | .ldReg _ _ => true
  | .orReg _ _ => true
  | .andReg _ _ => true
  | .xorReg _ _ => true
  | .addReg _ _ => true
  | .subReg _ _ => true
  | .shr _ _ => true
  | .subnReg _ _ => true
  | .shl _ _ => true
  | .sneReg _ _ => true
  | .ldI _ => true
  | .jpV0 _ => true
  | .rnd _ _ => true
  | .drw _ _ n => spriteRowsOk n
  | .skp _ => true
  | .sknp _ => true
  | .ldVxDt _ => true
  | .ldVxK _ => true
  | .ldDtVx _ => true
  | .ldStVx _ => true
  | .addIVx _ => true
  | .ldFVx _ => true
  | .ldBVx _ => true
  | .stRegs _ => true
  | .ldRegs _ => true

end Sys2Proof
end

