-- ==== Sys2Proof/Machine/Display.lean ====
section
/-! DEFINITION. The display instructions (43_display.md R239 to R241). Each is advanced by 2. -/

namespace Sys2Proof.Machine

/-- `00E0` CLS (43_display.md R239). -/
def execCls (s : State) : Outcome := .next s.clearBack.advance

/-- `Dxyn` DRW Vx, Vy, n: the coordinates are read before the flag write; an empty sprite halts before the addresses
are checked (43_display.md R240, R241; 60_exceptions.md R291). -/
def execDrw (x y : Reg) (n : Nibble) (s : State) : Outcome :=
  if spriteRowsOk n then
    let x0 := (s.readV x).toNat % 64
    let y0 := (s.readV y).toNat % 32
    let sprite := s.readBytes (s.dataAddr 0) n.toNat
    let hit := (drawSprite s.back x0 y0 sprite).collided
    s.guarded (checkRead (s.dataAddr 0) n.toNat) (encode (.drw x y n))
      ((s.drawBack x0 y0 sprite).writeFlag hit).advance
  else s.raise (.undefinedOperand .emptySprite (encode (.drw x y n)))

end Sys2Proof.Machine
end

