-- ==== Sys2Proof/Machine/IndexMemory.lean ====
section
/-! DEFINITION. The index register and the memory instructions (42_index_memory.md). Every address of an access is
checked before the first byte moves (20_memory.md R81); each instruction is advanced by 2. -/

namespace Sys2Proof.Machine

/-- `Annn` LD I, nnn (42_index_memory.md R200). -/
def execLdI (nnn : Addr12) (s : State) : Outcome := .next (s.setI (zextAddr nnn)).advance

/-- `Fx1E` ADD I, Vx: VF is not written (42_index_memory.md R201). -/
def execAddIVx (x : Reg) (s : State) : Outcome := .next (s.setI (s.indexPlus x)).advance

/-- `Fx29` LD F, Vx (42_index_memory.md R202). -/
def execLdFVx (x : Reg) (s : State) : Outcome := .next (s.setI (s.glyphAddr x)).advance

/-- `Fx33` LD B, Vx: hundreds, tens and ones at I, I+1, I+2 (42_index_memory.md R203). -/
def execLdBVx (x : Reg) (s : State) : Outcome :=
  s.guarded (checkWrite s.cfg (s.dataAddr 0) 3) (encode (.ldBVx x))
    (s.writeBytes (s.dataAddr 0) (bcdDigits (s.readV x))).advance

/-- `Fx55` LD [I], Vx: V0..Vx at I..I+x (42_index_memory.md R204). -/
def execStRegs (x : Reg) (s : State) : Outcome :=
  s.guarded (checkWrite s.cfg (s.dataAddr 0) (x.val + 1)) (encode (.stRegs x))
    ((s.writeBytes (s.dataAddr 0) (s.blockRegs x)).setI (s.indexAfterBlock x)).advance

/-- `Fx65` LD Vx, [I]: V0..Vx from I..I+x (42_index_memory.md R205). -/
def execLdRegs (x : Reg) (s : State) : Outcome :=
  s.guarded (checkRead (s.dataAddr 0) (x.val + 1)) (encode (.ldRegs x))
    ((s.loadBlock (s.dataAddr 0) x).setI (s.indexAfterBlock x)).advance

end Sys2Proof.Machine
end

