-- ==== Sys2Proof/Machine/InputState.lean ====
section
/-! DEFINITION. The InputState: presses, the debounced `is_down`, the key multiplexer of one step
(44_input.md R260 to R264, R268). -/

namespace Sys2Proof.Machine

/-- `is_down`, of a key whose last press is `last`: pressed, and at most the window ago (44_input.md R262;
90_conflicts.md C1: the bound is inclusive). -/
def isDown (window : Nat) (last : Option Nat) (now : Nat) : Bool :=
  match last with
  | some t => now - t ≤ window
  | none => false

/-- `key_down(k)`, at the one timestamp of the step (44_input.md R263). -/
def State.keyDown (s : State) (k : Fin 16) : Bool := isDown s.cfg.debounceWindow s.lastPress[k] s.env.now

/-- The smallest key that is down, if one is (44_input.md R267). -/
def State.lowestKeyDown (s : State) : Option (Fin 16) := (List.finRange 16).find? s.keyDown

/-- The key a register names, if there is one: keys exist only for 0 to 15 (44_input.md R268). -/
def keyOfByte (b : Byte) : Option (Fin 16) := if h : b.toNat < 16 then some ⟨b.toNat, h⟩ else none

/-- `record_press(k, t)`: a key index at or above 16 has no effect (44_input.md R261). -/
def State.recordPress (s : State) (k t : Nat) : State :=
  if h : k < 16 then { s with lastPress := s.lastPress.set k (some t) h } else s

/-- The latest recorded press, 0 when there is none: no step's `now` is earlier (44_input.md R263). -/
def State.latestPress (s : State) : Nat := s.lastPress.toList.foldl (fun m t => max m (t.getD 0)) 0

end Sys2Proof.Machine
end

