-- ==== Sys2Proof/Machine/Input.lean ====
section
/-! DEFINITION. The key instructions (44_input.md R265 to R268). Each sets the PC itself (40_control_flow.md R131). -/

namespace Sys2Proof.Machine

/-- `Ex9E` SKP Vx: a key index above 15 halts (44_input.md R265, R268). -/
def execSkp (x : Reg) (s : State) : Outcome :=
  match keyOfByte (s.readV x) with
  | some k => .next (s.skipIf (s.keyDown k))
  | none => s.raise (.undefinedOperand (.keyIndex (s.readV x)) (encode (.skp x)))

/-- `ExA1` SKNP Vx: a key index above 15 halts (44_input.md R266, R268). -/
def execSknp (x : Reg) (s : State) : Outcome :=
  match keyOfByte (s.readV x) with
  | some k => .next (s.skipIf (!s.keyDown k))
  | none => s.raise (.undefinedOperand (.keyIndex (s.readV x)) (encode (.sknp x)))

/-- `Fx0A` LD Vx, K: with no key down the PC stays and the instruction runs again; otherwise the smallest key that is
down goes to V[x] (44_input.md R267). -/
def execLdVxK (x : Reg) (s : State) : Outcome :=
  match s.lowestKeyDown with
  | some k => .next (s.writeV x (BitVec.ofNat 8 k.val)).advance
  | none => .next s

end Sys2Proof.Machine
end

