-- ==== Sys2Proof/Machine/RegisterAlu.lean ====
section
/-! DEFINITION. Register loads, the ALU, random and the timer copies (41_register_alu.md). Each reads its operands
before any write (R161), writes the result before the flag (R162), and is advanced by 2. -/

namespace Sys2Proof.Machine

/-- `6xkk` LD Vx, kk (41_register_alu.md R163). -/
def execLdImm (x : Reg) (kk : Byte) (s : State) : Outcome := .next (s.writeV x kk).advance

/-- `8xy0` LD Vx, Vy (41_register_alu.md R164). -/
def execLdReg (x y : Reg) (s : State) : Outcome := .next (s.writeV x (s.readV y)).advance

/-- `7xkk` ADD Vx, kk: no flag (41_register_alu.md R165). -/
def execAddImm (x : Reg) (kk : Byte) (s : State) : Outcome := .next (s.writeV x (s.readV x + kk)).advance

/-- `8xy1` OR Vx, Vy (41_register_alu.md R166). -/
def execOrReg (x y : Reg) (s : State) : Outcome := .next (s.writeV x (s.readV x ||| s.readV y)).advance

/-- `8xy2` AND Vx, Vy (41_register_alu.md R167). -/
def execAndReg (x y : Reg) (s : State) : Outcome := .next (s.writeV x (s.readV x &&& s.readV y)).advance

/-- `8xy3` XOR Vx, Vy (41_register_alu.md R168). -/
def execXorReg (x y : Reg) (s : State) : Outcome := .next (s.writeV x (s.readV x ^^^ s.readV y)).advance

/-- `8xy4` ADD Vx, Vy, the carry to VF (41_register_alu.md R169). -/
def execAddReg (x y : Reg) (s : State) : Outcome :=
  let a := s.readV x
  let b := s.readV y
  .next (s.writeResultFlag x (a + b) (carryOut a b)).advance

/-- `8xy5` SUB Vx, Vy, "no borrow" to VF (41_register_alu.md R170). -/
def execSubReg (x y : Reg) (s : State) : Outcome :=
  let a := s.readV x
  let b := s.readV y
  .next (s.writeResultFlag x (a - b) (noBorrow a b)).advance

/-- `8xy7` SUBN Vx, Vy, "no borrow" to VF (41_register_alu.md R172). -/
def execSubnReg (x y : Reg) (s : State) : Outcome :=
  let a := s.readV x
  let b := s.readV y
  .next (s.writeResultFlag x (b - a) (noBorrow b a)).advance

/-- `8xy6` SHR Vx {, Vy}, the bit shifted out to VF (41_register_alu.md R171). -/
def execShr (x y : Reg) (s : State) : Outcome :=
  let b := s.shiftOperand x y
  .next (s.writeResultFlag x (b >>> 1) (shiftedOutRight b)).advance

/-- `8xyE` SHL Vx {, Vy}, the bit shifted out to VF (41_register_alu.md R173). -/
def execShl (x y : Reg) (s : State) : Outcome :=
  let b := s.shiftOperand x y
  .next (s.writeResultFlag x (b <<< 1) (shiftedOutLeft b)).advance

/-- `Cxkk` RND Vx, kk: the step's random byte, masked (41_register_alu.md R174). -/
def execRnd (x : Reg) (kk : Byte) (s : State) : Outcome := .next (s.writeV x (s.env.draw &&& kk)).advance

/-- `Fx07` LD Vx, DT (41_register_alu.md R175). -/
def execLdVxDt (x : Reg) (s : State) : Outcome := .next (s.writeV x s.dt).advance

/-- `Fx15` LD DT, Vx (41_register_alu.md R176). -/
def execLdDtVx (x : Reg) (s : State) : Outcome := .next (s.setDt (s.readV x)).advance

/-- `Fx18` LD ST, Vx (41_register_alu.md R177). -/
def execLdStVx (x : Reg) (s : State) : Outcome := .next (s.setSt (s.readV x)).advance

end Sys2Proof.Machine
end

