-- ==== Sys2Proof/Machine/HostCalls.lean ====
section
/-! DEFINITION. What the agents other than the Executor do to the core (60_exceptions.md R295, R299 to R301): the
timer tick, the loader, and the inputs the environment gives each Executor step. `record_press` stands in
Machine/InputState.lean, `present` in Machine/DisplayBuffer.lean. -/

namespace Sys2Proof.Machine

/-- A timer one tick later: down by 1, floored at 0 (60_exceptions.md R295). -/
def countDown (b : Byte) : Byte := if b = 0 then 0 else b - 1

/-- `tick_timers()`: both timers in one step (60_exceptions.md R295). -/
def State.tickTimers (s : State) : State := { s with dt := countDown s.dt, st := countDown s.st }

/-- `MAX_PROGRAM` (00_scope.md R8). -/
def maxProgram : Nat := 3584

/-- `Create(program)`: the core after creation with a program at 0x200; a longer one is refused
(70_reset_and_hazards.md R320, R324). -/
def State.create (c : Config) (program : List Byte) : Outcome :=
  if program.length ≤ maxProgram then .next ((State.created c).writeBytes programStart program)
  else .refused .programTooLong

/-- The turns left to come. -/
def State.setSchedule (s : State) (turns : List Turn) : State := { s with env := { s.env with schedule := turns } }

/-- A press at `t` keeps the host's duty: timestamps of presses never decrease (44_input.md R261; log 4). -/
def State.acceptsPress (s : State) (t : Nat) : Bool := s.latestPress ≤ t

/-- A step at `now` keeps the environment's duty: never earlier than a recorded press or than the step before
(44_input.md R263; log 4). -/
def State.acceptsNow (s : State) (now : Nat) : Bool := s.latestPress ≤ now && s.env.now ≤ now

/-- The inputs of the Executor step about to be applied (60_exceptions.md R301). -/
def State.withInputs (s : State) (now : Nat) (draw : Byte) : State := { s with env := { s.env with now := now, draw := draw } }

/-- Free inputs for the Executor step about to be applied: some time at or after every press and the step before, and
some random byte (44_input.md R263, 41_register_alu.md R174; log 1). -/
def State.withFreeInputs (s : State) : State :=
  let now := max s.latestPress s.env.now + Config.freeElapsed s.env.turns
  { s with env := { s.env with now := now, draw := Config.freeDraw s.env.turns, turns := s.env.turns + 1 } }

end Sys2Proof.Machine
end

