-- ==== Sys2Proof/Machine/Cycle.lean ====
section
/-! DEFINITION. The Executor's cycle (40_control_flow.md R130) and the turns of the agents (60_exceptions.md R300). -/

namespace Sys2Proof.Machine

/-- `ExecStep`: Fetch, Decode, Dispatch, Apply and Advance, or a halt (40_control_flow.md R130, 60_exceptions.md R282,
R289). A halted core has no Executor step (60_exceptions.md R290). -/
def State.execStep (s : State) : Outcome :=
  match s.status with
  | .halted c pc => .fault (.halted c pc)
  | .running =>
    match s.fetch with
    | .error c => s.raise c
    | .ok w =>
      match decode w with
      | none => s.raise (.illegalOpcode w)
      | some i => exec i s

/-- A turn that the schedule names, the rest of the schedule left to come (60_exceptions.md R300, R301). -/
def State.takeTurn (s : State) (turn : Turn) (rest : List Turn) : Outcome :=
  match turn with
  | .executor now draw =>
    if s.acceptsNow now then ((s.setSchedule rest).withInputs now draw).execStep else .refused .hostClock
  | .tick => .next (s.setSchedule rest).tickTimers
  | .press k t =>
    if s.acceptsPress t then .next ((s.setSchedule rest).recordPress k t) else .refused .hostClock
  | .present => .next (s.setSchedule rest).present.2

/-- One atomic step of one agent: the schedule's first, or the Executor with free inputs when it names none
(60_exceptions.md R300; log 1, 2). -/
def State.nextTurn (s : State) : Outcome :=
  match s.env.schedule with
  | [] => s.withFreeInputs.execStep
  | turn :: rest => s.takeTurn turn rest

/-- Where the word at the PC stands, if a fetch there succeeds; else the entry point (20_memory.md R76,
70_reset_and_hazards.md R321). -/
def State.fetchable (s : State) : Word :=
  if s.pc.toNat % 2 = 0 ∧ s.pc.toNat + 1 < memSize then s.pc else 0x200

/-- A running state with no turn listed, the given bytes stored where it fetches its next instruction. -/
def State.placeAtFetch (s : State) (bytes : List Byte) : State :=
  let pc := s.fetchable
  (({ s with pc := pc, status := .running } : State).setSchedule []).writeBytes pc.toNat bytes

end Sys2Proof.Machine
end

