-- ==== Sys2Proof/Machine/Step.lean ====
section
/-! DEFINITION. The step of the machine, and a word placed where it fetches its next instruction. -/

namespace Sys2Proof.Machine

/-- One atomic step of one agent (60_exceptions.md R300; Machine/Cycle.lean). -/
def step (s : State) : Host.Outcome State Fault Refusal := s.nextTurn

/-- `s` with a word of the opcode table stored where `step` fetches its next instruction, running and with no turn
listed, so that the very next step runs it (log 7). -/
def State.withFetchWord (s : State) (nbits w : Nat) : State := s.placeAtFetch (tableBytes nbits w)

end Sys2Proof.Machine
end

