-- ==== Sys2Proof/Safety.lean ====
section
/-! DEFINITION. What claims about the machine are stated in: the invariant every step keeps, the parts of the state an
instruction may write, and the parked state that ends a program (60_exceptions.md R305). -/

namespace Sys2Proof.Machine

/-! ### Parts of the state that two states share -/

/-- Every byte of memory reads the same. -/
def State.SameMemory (s t : State) : Prop := ∀ a, t.readByte a = s.readByte a

/-- Every general register holds the same. -/
def State.SameRegs (s t : State) : Prop := ∀ r, t.readV r = s.readV r

/-- The call stack is the same. -/
def State.SameStack (s t : State) : Prop := t.stack = s.stack ∧ t.sp = s.sp

/-- Both timers are the same. -/
def State.SameTimers (s t : State) : Prop := t.dt = s.dt ∧ t.st = s.st

/-- Both planes and DIRTY are the same. -/
def State.SameDisplay (s t : State) : Prop := t.back = s.back ∧ t.front = s.front ∧ t.dirty = s.dirty

/-- The key slots, the parameters and the environment's inputs are the same, and so is STATUS. -/
def State.SameHost (s t : State) : Prop :=
  t.lastPress = s.lastPress ∧ t.cfg = s.cfg ∧ t.env = s.env ∧ t.status = s.status

/-- Everything but the general registers, I and the PC is the same: the frame of a register instruction. -/
def State.SameButRegs (s t : State) : Prop :=
  s.SameMemory t ∧ s.SameStack t ∧ s.SameTimers t ∧ s.SameDisplay t ∧ s.SameHost t

/-- The instruction completes: it answers a next state in which every general register holds the number `f` gives,
the PC is advanced by 2, and everything else is as before. -/
def CompletesWithRegs (i : Instr) (s : State) (f : Reg → Nat) : Prop :=
  ∃ t, exec i s = .next t ∧ (∀ r, (t.readV r).toNat = f r) ∧ t.i = s.i ∧ t.pc = s.pc + 2 ∧ s.SameButRegs t

/-- The instruction completes: it answers a next state in which the PC is `pc` and everything else is as before. -/
def CompletesAtPc (i : Instr) (s : State) (pc : Nat) : Prop :=
  ∃ t, exec i s = .next t ∧ t.pc.toNat = pc ∧ s.SameRegs t ∧ t.i = s.i ∧ s.SameButRegs t

/-- The instruction completes: it answers a next state in which I is the number `a`, the PC is advanced by 2, and
everything else is as before. -/
def CompletesWithIndex (i : Instr) (s : State) (a : Nat) : Prop :=
  ∃ t, exec i s = .next t ∧ t.i.toNat = a ∧ t.pc = s.pc + 2 ∧ s.SameRegs t ∧ s.SameButRegs t

/-- The instruction halts the core: STATUS is the record of the cause and the PC, and nothing else changes
(60_exceptions.md R289). -/
def HaltsWith (i : Instr) (s : State) (c : Cause) : Prop :=
  exec i s = .next { s with status := .halted c s.pc }

/-! ### What an instruction may write (10_state.md R31, R32, R38) -/

/-- The general registers an instruction may write: its destination, and VF where it writes the flag
(10_state.md R31, R32). -/
def mayWriteV (i : Instr) (r : Reg) : Bool :=
  match i with
  | .ldImm x _ | .addImm x _ | .ldReg x _ | .orReg x _ | .andReg x _ | .xorReg x _ | .rnd x _ | .ldVxDt x
  | .ldVxK x => r == x
  | .addReg x _ | .subReg x _ | .subnReg x _ | .shr x _ | .shl x _ => r == x || r == VF
  | .drw _ _ _ => r == VF
  | .ldRegs x => decide (r ≤ x)
  | .cls | .ret | .jp _ | .call _ | .seImm _ _ | .sneImm _ _ | .seReg _ _ | .sneReg _ _ | .ldI _ | .jpV0 _ | .skp _
  | .sknp _ | .ldDtVx _ | .ldStVx _ | .addIVx _ | .ldFVx _ | .ldBVx _ | .stRegs _ => false

/-- The instructions that set the PC themselves (40_control_flow.md R131). -/
def redirects : Instr → Bool
  | .jp _ | .call _ | .ret | .jpV0 _ | .seImm _ _ | .sneImm _ _ | .seReg _ _ | .sneReg _ _ | .skp _ | .sknp _
  | .ldVxK _ => true
  | .cls | .ldImm _ _ | .addImm _ _ | .ldReg _ _ | .orReg _ _ | .andReg _ _ | .xorReg _ _ | .addReg _ _ | .subReg _ _
  | .shr _ _ | .subnReg _ _ | .shl _ _ | .ldI _ | .rnd _ _ | .drw _ _ _ | .ldVxDt _ | .ldDtVx _ | .ldStVx _
  | .addIVx _ | .ldFVx _ | .ldBVx _ | .stRegs _ | .ldRegs _ => false

/-! ### The invariant -/

/-- A live return address is even and at most 0x1000: it was pushed after a fetch at an even PC below 0xFFF
(40_control_flow.md R132, R134). -/
def State.ReturnsAligned (s : State) : Prop :=
  ∀ k : Fin 16, k.val < s.sp.val → s.stack[k].toNat % 2 = 0 ∧ s.stack[k].toNat ≤ 0x1000

/-- With the policy `fault`, the reserved region reads as at creation (20_memory.md R74). -/
def State.ReservedKept (s : State) : Prop :=
  s.cfg.reservedWrite = .fault → ∀ a, a < programStart → s.readByte a = Memory.unlisted s.cfg a

/-- A halt record names the instruction the PC still holds (60_exceptions.md R289). -/
def State.HaltAtPc (s : State) : Prop := ∀ c pc, s.status = .halted c pc → pc = s.pc

/-- What every step of every agent keeps. -/
structure State.Inv (s : State) : Prop where
  memory : Memory.wf s.cfg s.mem
  reserved : s.ReservedKept
  returns : s.ReturnsAligned
  haltAtPc : s.HaltAtPc

/-! ### The end of a program (60_exceptions.md R305) -/

/-- "PC holds a self-jump `1nnn` with nnn = PC and STATUS = Running" (60_exceptions.md R305). -/
def State.Parked (s : State) : Prop :=
  s.status = .running ∧ ∃ w nnn, s.fetch = .ok w ∧ decode w = some (.jp nnn) ∧ zextAddr nnn = s.pc

/-- A sprite's bit over a pixel: row and column offsets counted with wraparound from the origin, bit 7 leftmost
(43_display.md R230, R233, R234). -/
def spriteBit (x0 y0 : Nat) (rows : List Byte) (x y : Nat) : Bool :=
  let c := (x + 64 - x0) % 64
  let r := (y + 32 - y0) % 32
  decide (c < 8) && (match rows[r]? with
    | some row => row.getLsbD (7 - c)
    | none => false)

end Sys2Proof.Machine
end

