-- ==== Sys2Proof/Certificates/Slice0/Obligations.lean ====
section
/-! DEFINITION. The statements for the provers. Each holds for every state, and so for every choice of the parameters,
every random byte, every timestamp and every schedule of the agents, unless it says otherwise. -/

open Sys2Proof Sys2Proof.Machine

/-! ### Encoding (30_encoding.md) -/

/-- Every instruction, with every operand at every value, is what its word decodes to (30_encoding.md section 2). -/
def Obligations.DecodeOfEncode : Prop := ∀ i : Instr, decode (encode i) = some i

/-- A word that decodes is the word of the instruction it decodes to, so no two words are one instruction and no bit of
a word is dropped (30_encoding.md section 2). -/
def Obligations.EncodeOfDecode : Prop := ∀ (w : Word) (i : Instr), decode w = some i → encode i = w

/-- No word matches two rows of the table (30_encoding.md section 2, the spec's inference in R105). -/
def Obligations.OpcodeRowsDisjoint : Prop :=
  ∀ (w : Word) (p q : Row), p ∈ opcodeTable → q ∈ opcodeTable → patternFits p.pattern (nibblesOf w) = true →
    patternFits q.pattern (nibblesOf w) = true → p = q

/-- A row matches by its nibble matchers exactly when it matches by its mask and match value
(30_encoding.md section 2, R103). -/
def Obligations.MaskMatchAgreesWithMatchers : Prop :=
  ∀ (w : Word) (r : Row), r ∈ opcodeTable → r.maskMatches w = patternFits r.pattern (nibblesOf w)

/-- The illegal words are exactly those of the table in 30_encoding.md R106 (section 3, with the spec's D9). -/
def Obligations.IllegalWordsExactly : Prop :=
  ∀ w : Word, decode w = none ↔
    let v := w.toNat
    (v / 4096 = 0x0 ∧ v ≠ 0x00E0 ∧ v ≠ 0x00EE) ∨
    (v / 4096 = 0x5 ∧ v % 16 ≠ 0) ∨
    (v / 4096 = 0x8 ∧ (v % 16 = 0x8 ∨ v % 16 = 0x9 ∨ v % 16 = 0xA ∨ v % 16 = 0xB ∨ v % 16 = 0xC ∨ v % 16 = 0xD ∨
      v % 16 = 0xF)) ∨
    (v / 4096 = 0x9 ∧ v % 16 ≠ 0) ∨
    (v / 4096 = 0xE ∧ v % 256 ≠ 0x9E ∧ v % 256 ≠ 0xA1) ∨
    (v / 4096 = 0xF ∧ v % 256 ≠ 0x07 ∧ v % 256 ≠ 0x0A ∧ v % 256 ≠ 0x15 ∧ v % 256 ≠ 0x18 ∧ v % 256 ≠ 0x1E ∧
      v % 256 ≠ 0x29 ∧ v % 256 ≠ 0x33 ∧ v % 256 ≠ 0x55 ∧ v % 256 ≠ 0x65)

/-- A few words, one of each family, written out from the patterns of 30_encoding.md R104. -/
def Obligations.WrittenWordsDecode : Prop :=
  decode 0x1234 = some (.jp 0x234) ∧ decode 0x00E0 = some .cls ∧ decode 0x8125 = some (.subReg 1 2) ∧
  decode 0xF355 = some (.stRegs 3) ∧ decode 0xD7A3 = some (.drw 7 10 3) ∧ decode 0xE59E = some (.skp 5) ∧
  decode 0x5121 = none ∧ decode 0xF12B = none

/-! ### Registers and ALU (41_register_alu.md) -/

/-- `6xkk` is this instruction, and `V[x] <- kk` (41_register_alu.md section 2; the bit pattern is the spec's general
knowledge G1, log 13). -/
def Obligations.LoadImmediateResult : Prop :=
  ∀ (s : State) (x : Reg) (kk : Byte),
    decode (BitVec.ofNat 16 (0x6000 + 0x100 * x.val + kk.toNat)) = some (.ldImm x kk) ∧
    CompletesWithRegs (.ldImm x kk) s fun r => if r = x then kk.toNat else (s.readV r).toNat

/-- `8xy0` is this instruction, and `V[x] <- V[y]` (41_register_alu.md section 2; the bit pattern is the spec's general
knowledge G1, log 13). -/
def Obligations.RegisterCopyResult : Prop :=
  ∀ (s : State) (x y : Reg),
    decode (BitVec.ofNat 16 (0x8000 + 0x100 * x.val + 0x10 * y.val)) = some (.ldReg x y) ∧
    CompletesWithRegs (.ldReg x y) s fun r => if r = x then (s.readV y).toNat else (s.readV r).toNat

/-- `7xkk` is this instruction, `V[x] <- (V[x] + kk) mod 256`, and VF is not a flag: with x = F it receives the sum
(41_register_alu.md section 3; the bit pattern is the spec's general knowledge G1, log 13). -/
def Obligations.AddImmediateResult : Prop :=
  ∀ (s : State) (x : Reg) (kk : Byte),
    decode (BitVec.ofNat 16 (0x7000 + 0x100 * x.val + kk.toNat)) = some (.addImm x kk) ∧
    CompletesWithRegs (.addImm x kk) s fun r =>
      if r = x then ((s.readV x).toNat + kk.toNat) % 256 else (s.readV r).toNat

/-- OR, AND and XOR of V[x] and V[y] to V[x]; VF is unchanged unless x = F (41_register_alu.md section 4; that VF is
not written is the spec's own decision D13). -/
def Obligations.BitwiseResults : Prop :=
  ∀ (s : State) (x y : Reg),
    CompletesWithRegs (.orReg x y) s (fun r =>
      if r = x then (s.readV x).toNat ||| (s.readV y).toNat else (s.readV r).toNat) ∧
    CompletesWithRegs (.andReg x y) s (fun r =>
      if r = x then (s.readV x).toNat &&& (s.readV y).toNat else (s.readV r).toNat) ∧
    CompletesWithRegs (.xorReg x y) s (fun r =>
      if r = x then (s.readV x).toNat ^^^ (s.readV y).toNat else (s.readV r).toNat)

/-- The sum modulo 256 to V[x], the carry to VF; with x = F the carry remains (41_register_alu.md sections 1 and 5; the
order of the two writes is the spec's own decision D12). -/
def Obligations.AddWithCarryResult : Prop :=
  ∀ (s : State) (x y : Reg),
    let a := (s.readV x).toNat
    let b := (s.readV y).toNat
    CompletesWithRegs (.addReg x y) s fun r =>
      if r = VF then (if 256 ≤ a + b then 1 else 0) else if r = x then (a + b) % 256 else (s.readV r).toNat

/-- The differences modulo 256 to V[x], "no borrow" to VF; with x = F the flag remains (41_register_alu.md sections 1
and 5; the order of the two writes is the spec's own decision D12). -/
def Obligations.SubtractResults : Prop :=
  ∀ (s : State) (x y : Reg),
    let a := (s.readV x).toNat
    let b := (s.readV y).toNat
    CompletesWithRegs (.subReg x y) s (fun r =>
      if r = VF then (if b ≤ a then 1 else 0) else if r = x then (a + 256 - b) % 256 else (s.readV r).toNat) ∧
    CompletesWithRegs (.subnReg x y) s (fun r =>
      if r = VF then (if a ≤ b then 1 else 0) else if r = x then (b + 256 - a) % 256 else (s.readV r).toNat)

/-- A shift by 1 of V[x], or of V[y] where SHIFT_SOURCE is Vy, to V[x], and the bit shifted out to VF; with x = F the
bit remains (41_register_alu.md section 6; the source and the order are the spec's own decisions D11 and D12). -/
def Obligations.ShiftResults : Prop :=
  ∀ (s : State) (x y : Reg),
    let b := (s.readV (if s.cfg.shiftSource = .vx then x else y)).toNat
    CompletesWithRegs (.shr x y) s (fun r =>
      if r = VF then b % 2 else if r = x then b / 2 else (s.readV r).toNat) ∧
    CompletesWithRegs (.shl x y) s (fun r =>
      if r = VF then b / 128 else if r = x then b * 2 % 256 else (s.readV r).toNat)

/-- The step's random byte masked with kk to V[x], whatever the byte (41_register_alu.md section 7; that it is a free
draw of the step is the spec's own decision D25; log 1). -/
def Obligations.RandomIsMaskedDraw : Prop :=
  ∀ (s : State) (x : Reg) (kk draw : Byte),
    CompletesWithRegs (.rnd x kk) { s with env := { s.env with draw := draw } } fun r =>
      if r = x then draw.toNat &&& kk.toNat else (s.readV r).toNat

/-- `Fx15` is this instruction, and `DT <- V[x]`; with V[x] = 0 the countdown is over at once (41_register_alu.md section 8;
that Fx15 is this copy is the spec's general knowledge G8 and its bit pattern G1, log 13). -/
def Obligations.SetDelayTimerResult : Prop :=
  ∀ (s : State) (x : Reg), decode (BitVec.ofNat 16 (0xF015 + 0x100 * x.val)) = some (.ldDtVx x) ∧
    ∃ t, exec (.ldDtVx x) s = .next t ∧ t.dt = s.readV x ∧
    (s.readV x = 0 → t.tickTimers.dt = 0 ∧ t.dt = 0) ∧ t.st = s.st ∧ t.pc = s.pc + 2 ∧ t.i = s.i ∧ s.SameRegs t ∧
    s.SameMemory t ∧ s.SameStack t ∧ s.SameDisplay t ∧ s.SameHost t

/-- DT to V[x], and V[x] to ST (41_register_alu.md section 8; that these are the copies is the spec's general knowledge G8,
log 13). -/
def Obligations.TimerCopyResults : Prop :=
  ∀ (s : State) (x : Reg),
    CompletesWithRegs (.ldVxDt x) s (fun r => if r = x then s.dt.toNat else (s.readV r).toNat) ∧
    ∃ t, exec (.ldStVx x) s = .next t ∧ t.st = s.readV x ∧ t.dt = s.dt ∧ t.pc = s.pc + 2 ∧ t.i = s.i ∧ s.SameRegs t ∧
      s.SameMemory t ∧ s.SameStack t ∧ s.SameDisplay t ∧ s.SameHost t

/-! ### Control flow (40_control_flow.md) -/

/-- `1nnn` is this instruction, and the PC is nnn; an odd target raises MisalignedPC at the next fetch, and an even one, in
the reserved region too, is fetched like any memory (40_control_flow.md section 2; that an odd PC raises is the spec's own
decision D6, log 12). -/
def Obligations.JumpResult : Prop :=
  ∀ (s : State) (nnn : Addr12), decode (BitVec.ofNat 16 (0x1000 + nnn.toNat)) = some (.jp nnn) ∧
    ∃ t, exec (.jp nnn) s = .next t ∧ t.pc.toNat = nnn.toNat ∧ s.SameRegs t ∧ t.i = s.i ∧
    s.SameButRegs t ∧ (nnn.toNat % 2 = 1 → t.fetch = .error .misalignedPC) ∧
    (nnn.toNat % 2 = 0 → t.fetch = .ok (joinBytes (s.readByte nnn.toNat) (s.readByte (nnn.toNat + 1))))

/-- A call with fewer than 16 live entries pushes the address of the next instruction and goes to nnn
(40_control_flow.md section 2; that PC + 2 is pushed is the spec's own decision D10). -/
def Obligations.CallResult : Prop :=
  ∀ (s : State) (nnn : Addr12), s.sp.val < 16 → ∃ t, exec (.call nnn) s = .next t ∧ t.pc.toNat = nnn.toNat ∧
    t.sp.val = s.sp.val + 1 ∧ (∀ k : Fin 16, t.stack[k] = if k.val = s.sp.val then s.pc + 2 else s.stack[k]) ∧
    s.SameRegs t ∧ t.i = s.i ∧ s.SameMemory t ∧ s.SameTimers t ∧ s.SameDisplay t ∧ s.SameHost t

/-- A return with a live entry takes it off and goes to it, leaving the entry's place as it was
(40_control_flow.md section 2). -/
def Obligations.ReturnResult : Prop :=
  ∀ (s : State) (k : Fin 16), s.sp.val = k.val + 1 → ∃ t, exec .ret s = .next t ∧ t.pc = s.stack[k] ∧
    t.sp.val = k.val ∧ t.stack = s.stack ∧ s.SameRegs t ∧ t.i = s.i ∧ s.SameMemory t ∧ s.SameTimers t ∧
    s.SameDisplay t ∧ s.SameHost t

/-- A call with 16 live entries and a return with none halt the core with the word, and change nothing else
(40_control_flow.md section 2; the halt record is the spec's own decision D26, log 8). -/
def Obligations.StackBoundsHalt : Prop :=
  ∀ (s : State) (nnn : Addr12),
    (s.sp.val = 16 → HaltsWith (.call nnn) s (.stackOverflow (BitVec.ofNat 16 (0x2000 + nnn.toNat)))) ∧
    (s.sp.val = 0 → HaltsWith .ret s (.stackUnderflow 0x00EE))

/-- A call and, from any later state with the same stack, a return: the PC is that of the instruction after the call
and the live entries are those before it (40_control_flow.md section 2; the spec's own decision D10). -/
def Obligations.CallThenReturn : Prop :=
  ∀ (s t u : State) (nnn : Addr12), s.sp.val < 16 → exec (.call nnn) s = .next t → u.stack = t.stack → u.sp = t.sp →
    ∃ v, exec .ret u = .next v ∧ v.pc = s.pc + 2 ∧ v.sp = s.sp ∧
      ∀ k : Fin 16, k.val < s.sp.val → v.stack[k] = s.stack[k]

/-- The PC is nnn + V0, not reduced modulo 4096 (40_control_flow.md section 2; the spec's own decision D7). -/
def Obligations.OffsetJumpResult : Prop :=
  ∀ (s : State) (nnn : Addr12), CompletesAtPc (.jpV0 nnn) s (nnn.toNat + (s.readV 0).toNat)

/-- `3xkk` and `4xkk` are these instructions; PC + 4 when the condition holds and PC + 2 when not, modulo 2^16
(40_control_flow.md sections 1 and 3; the bit patterns are the spec's general knowledge G1, log 13). -/
def Obligations.SkipImmediateResults : Prop :=
  ∀ (s : State) (x : Reg) (kk : Byte),
    decode (BitVec.ofNat 16 (0x3000 + 0x100 * x.val + kk.toNat)) = some (.seImm x kk) ∧
    decode (BitVec.ofNat 16 (0x4000 + 0x100 * x.val + kk.toNat)) = some (.sneImm x kk) ∧
    CompletesAtPc (.seImm x kk) s ((s.pc.toNat + if (s.readV x).toNat = kk.toNat then 4 else 2) % 65536) ∧
    CompletesAtPc (.sneImm x kk) s ((s.pc.toNat + if (s.readV x).toNat = kk.toNat then 2 else 4) % 65536)

/-- `5xy0` and `9xy0` are these instructions, and `5xyN` and `9xyN` with N other than 0 are illegal; PC + 4 when the
condition holds and PC + 2 when not, modulo 2^16 (40_control_flow.md sections 1 and 3; the bit patterns, and that `5xy0` is
the comparison for equality, are the spec's general knowledge G1, log 13). -/
def Obligations.SkipRegisterResults : Prop :=
  ∀ (s : State) (x y : Reg),
    CompletesAtPc (.seReg x y) s ((s.pc.toNat + if (s.readV x).toNat = (s.readV y).toNat then 4 else 2) % 65536) ∧
    CompletesAtPc (.sneReg x y) s ((s.pc.toNat + if (s.readV x).toNat = (s.readV y).toNat then 2 else 4) % 65536) ∧
    (∀ n : Nibble, decode (BitVec.ofNat 16 (0x5000 + 0x100 * x.val + 0x10 * y.val + n.toNat)) =
      if n = 0 then some (.seReg x y) else none) ∧
    (∀ n : Nibble, decode (BitVec.ofNat 16 (0x9000 + 0x100 * x.val + 0x10 * y.val + n.toNat)) =
      if n = 0 then some (.sneReg x y) else none)

/-! ### Index register and memory (42_index_memory.md) -/

/-- `Annn` is this instruction, and `I <- zext_16(nnn)` (42_index_memory.md section 1; the bit pattern is the spec's general
knowledge G1, log 13). -/
def Obligations.LoadIndexResult : Prop :=
  ∀ (s : State) (nnn : Addr12), decode (BitVec.ofNat 16 (0xA000 + nnn.toNat)) = some (.ldI nnn) ∧
    CompletesWithIndex (.ldI nnn) s nnn.toNat

/-- I + V[x] modulo 2^16, VF unchanged (42_index_memory.md section 1; that VF is not written is the spec's own decision
D14). -/
def Obligations.AddIndexResult : Prop :=
  ∀ (s : State) (x : Reg), CompletesWithIndex (.addIVx x) s ((s.i.toNat + (s.readV x).toNat) % 65536)

/-- The address of the glyph of V[x]'s low nibble, and the five bytes there, where no store has reached them, are that
glyph's rows of the font (42_index_memory.md section 1, 43_display.md section 4; FONT_BASE and FONT are parameters,
the spec's D3 and D4). -/
def Obligations.GlyphAddressResult : Prop :=
  ∀ (s : State) (x : Reg),
    CompletesWithIndex (.ldFVx x) s (s.cfg.fontBase.val + 5 * ((s.readV x).toNat % 16)) ∧
    ∀ row, (h : row < 5) → Memory.unlisted s.cfg (s.cfg.fontBase.val + 5 * ((s.readV x).toNat % 16) + row) =
      s.cfg.font[5 * ((s.readV x).toNat % 16) + row]'(by omega)

/-- With I to I+2 in memory and writable, the hundreds, tens and ones of V[x] are stored at `dataAddr` 0, 1, 2, and every
other byte, and everything else, is as before (42_index_memory.md section 2, 20_memory.md section 2). -/
def Obligations.BcdStoreResult : Prop :=
  ∀ (s : State) (x : Reg), s.i.toNat + 3 ≤ 0x1000 → (s.cfg.reservedWrite = .fault → 0x200 ≤ s.i.toNat) →
    ∃ t, exec (.ldBVx x) s = .next t ∧ (t.readByte (s.dataAddr 0)).toNat = (s.readV x).toNat / 100 ∧
      (t.readByte (s.dataAddr 1)).toNat = (s.readV x).toNat / 10 % 10 ∧
      (t.readByte (s.dataAddr 2)).toNat = (s.readV x).toNat % 10 ∧
      (∀ a, a ≠ s.dataAddr 0 → a ≠ s.dataAddr 1 → a ≠ s.dataAddr 2 → t.readByte a = s.readByte a) ∧
      t.i = s.i ∧ t.pc = s.pc + 2 ∧ s.SameRegs t ∧ s.SameStack t ∧ s.SameTimers t ∧ s.SameDisplay t ∧ s.SameHost t

/-- With I to I+x in memory and writable, V[k] is stored at `dataAddr k` for k from 0 to x, every other byte and
everything else is as before, and I moves by x + 1 only where LOADSTORE_I_INCREMENT is set (42_index_memory.md
section 2; the parameter is the spec's own decision D15). -/
def Obligations.BlockStoreResult : Prop :=
  ∀ (s : State) (x : Reg), s.i.toNat + x.val + 1 ≤ 0x1000 → (s.cfg.reservedWrite = .fault → 0x200 ≤ s.i.toNat) →
    ∃ t, exec (.stRegs x) s = .next t ∧ (∀ k : Reg, k ≤ x → t.readByte (s.dataAddr k.val) = s.readV k) ∧
      (∀ a, (∀ k : Reg, k ≤ x → a ≠ s.dataAddr k.val) → t.readByte a = s.readByte a) ∧
      t.i.toNat = (if s.cfg.loadStoreIncrement then s.i.toNat + x.val + 1 else s.i.toNat) ∧
      t.pc = s.pc + 2 ∧ s.SameRegs t ∧ s.SameStack t ∧ s.SameTimers t ∧ s.SameDisplay t ∧ s.SameHost t

/-- With I to I+x in memory, the byte at `dataAddr k` is loaded into V[k] for k from 0 to x, every other register and
everything else is as before, and I moves by x + 1 only where LOADSTORE_I_INCREMENT is set (42_index_memory.md
section 2; the parameter is the spec's own decision D15). -/
def Obligations.BlockLoadResult : Prop :=
  ∀ (s : State) (x : Reg), s.i.toNat + x.val + 1 ≤ 0x1000 →
    ∃ t, exec (.ldRegs x) s = .next t ∧
      (∀ k : Reg, t.readV k = if k ≤ x then s.readByte (s.dataAddr k.val) else s.readV k) ∧
      t.i.toNat = (if s.cfg.loadStoreIncrement then s.i.toNat + x.val + 1 else s.i.toNat) ∧
      t.pc = s.pc + 2 ∧ s.SameButRegs t

/-- A block stored and loaded back from the same address gives V0..Vx what they held, whatever they hold in between
(42_index_memory.md section 2, the source's round trip). -/
def Obligations.BlockStoreLoadRoundTrip : Prop :=
  ∀ (s t u v : State) (x : Reg), t.status = .running → exec (.stRegs x) s = .next t → u.mem = t.mem → u.cfg = t.cfg →
    u.status = .running → u.i = s.i → exec (.ldRegs x) u = .next v →
    v.status = .running ∧ ∀ k : Reg, k ≤ x → v.readV k = s.readV k

/-- An access that runs past memory halts with its first address at or above 0x1000; a store that starts in the reserved
region under the policy `fault` halts with its first address; nothing else changes (42_index_memory.md section 2,
43_display.md section 3, 60_exceptions.md sections 1 and 2; the spec's own decisions D7, D8, D26, D27, D28). -/
def Obligations.AccessFaultsHalt : Prop :=
  ∀ (s : State) (x y : Reg) (n : Nibble),
    (0x1000 < s.i.toNat + 3 →
      HaltsWith (.ldBVx x) s (.addressOutOfRange (max s.i.toNat 0x1000) (some (encode (.ldBVx x))))) ∧
    (0x1000 < s.i.toNat + x.val + 1 →
      HaltsWith (.stRegs x) s (.addressOutOfRange (max s.i.toNat 0x1000) (some (encode (.stRegs x)))) ∧
      HaltsWith (.ldRegs x) s (.addressOutOfRange (max s.i.toNat 0x1000) (some (encode (.ldRegs x))))) ∧
    (n ≠ 0 → 0x1000 < s.i.toNat + n.toNat →
      HaltsWith (.drw x y n) s (.addressOutOfRange (max s.i.toNat 0x1000) (some (encode (.drw x y n))))) ∧
    (s.cfg.reservedWrite = .fault → s.i.toNat < 0x200 →
      HaltsWith (.ldBVx x) s (.reservedWrite s.i.toNat (encode (.ldBVx x))) ∧
      HaltsWith (.stRegs x) s (.reservedWrite s.i.toNat (encode (.stRegs x))))

/-! ### Display (43_display.md) -/

/-- R232 and R239: `00E0` is this instruction, every pixel of BACK is 0, DIRTY is set, FRONT, VF and everything else is
unchanged. -/
def Obligations.ClearDisplayResult : Prop :=
  ∀ s : State, decode 0x00E0 = some .cls ∧ ∃ t, exec .cls s = .next t ∧ (∀ x y, t.getPixel .back x y = false) ∧ t.dirty = true ∧
    t.front = s.front ∧ t.pc = s.pc + 2 ∧ t.i = s.i ∧ s.SameRegs t ∧ s.SameMemory t ∧ s.SameStack t ∧ s.SameTimers t ∧
    s.SameHost t

/-- With 1 to 15 rows in memory, column c of row r flips the pixel at (V[x] + c, V[y] + r), wrapped, exactly where bit
7 - c of the byte at I + r is set; no other pixel changes; VF is 1 exactly when some flipped pixel was set; DIRTY is set;
everything else is as before (43_display.md sections 1 to 3; the bit order is the spec's own decision D5, DIRTY D19). -/
def Obligations.DrawResult : Prop :=
  ∀ (s : State) (x y : Reg) (n : Nibble), n ≠ 0 → s.i.toNat + n.toNat ≤ 0x1000 →
    let px := fun c => ((s.readV x).toNat + c) % 64
    let py := fun r => ((s.readV y).toNat + r) % 32
    let bit := fun r c => (s.readByte (s.dataAddr r)).getLsbD (7 - c)
    ∃ t, exec (.drw x y n) s = .next t ∧
      (∀ r c, r < n.toNat → c < 8 → t.getPixel .back (px c) (py r) = (s.getPixel .back (px c) (py r) ^^ bit r c)) ∧
      (∀ u w, u < 64 → w < 32 → (∀ r c, r < n.toNat → c < 8 → ¬ (u = px c ∧ w = py r)) →
        t.getPixel .back u w = s.getPixel .back u w) ∧
      ((∃ r c, r < n.toNat ∧ c < 8 ∧ s.getPixel .back (px c) (py r) = true ∧ bit r c = true) → t.readV VF = 1) ∧
      (¬ (∃ r c, r < n.toNat ∧ c < 8 ∧ s.getPixel .back (px c) (py r) = true ∧ bit r c = true) → t.readV VF = 0) ∧
      (∀ reg, reg ≠ VF → t.readV reg = s.readV reg) ∧
      t.dirty = true ∧ t.front = s.front ∧ t.i = s.i ∧ t.pc = s.pc + 2 ∧ s.SameMemory t ∧ s.SameStack t ∧
      s.SameTimers t ∧ s.SameHost t

/-- A sprite drawn twice at one place leaves the plane as it was, and on a blank plane the second drawing collides exactly
when the sprite has a set bit (43_display.md section 3). -/
def Obligations.DrawTwiceErases : Prop :=
  ∀ (p : Plane) (x0 y0 : Nat) (rows : List Byte), x0 < 64 → y0 < 32 → rows.length ≤ 15 →
    (drawSprite (drawSprite p x0 y0 rows).plane x0 y0 rows).plane = p ∧
    ((drawSprite (drawSprite Plane.blank x0 y0 rows).plane x0 y0 rows).collided = true ↔ ∃ row ∈ rows, row ≠ 0)

/-- `Dxy0` halts before any effect, wherever I points (43_display.md section 3, 60_exceptions.md section 2; the spec's own
decisions D18 and D28). -/
def Obligations.EmptySpriteHalts : Prop :=
  ∀ (s : State) (x y : Reg),
    HaltsWith (.drw x y 0) s (.undefinedOperand .emptySprite (BitVec.ofNat 16 (0xD000 + 0x100 * x.val + 0x10 * y.val)))

/-! ### Input (44_input.md) -/

/-- R262: a key is down while at most the window has passed since its last press, inclusive; a key never pressed is not
down; the window is 100 ms unless a parameter says otherwise. -/
def Obligations.KeyDownWindow : Prop :=
  ∀ (s : State) (k : Fin 16) (t now : Nat) (draw : Byte), t ≤ now →
    (((s.recordPress k.val t).withInputs now draw).keyDown k = true ↔ now - t ≤ s.cfg.debounceWindow) ∧
    (∀ j : Fin 16, j ≠ k →
      ((s.recordPress k.val t).withInputs now draw).keyDown j = (s.withInputs now draw).keyDown j) ∧
    (s.lastPress[k] = none → (s.withInputs now draw).keyDown k = false) ∧ Config.default.debounceWindow = 100

/-- With V[x] a key index, PC + 4 when the key is down for SKP and when it is not for SKNP, else PC + 2
(44_input.md section 2; one timestamp for the step is the spec's own decision D23). -/
def Obligations.SkipKeyResults : Prop :=
  ∀ (s : State) (x : Reg) (k : Fin 16), (s.readV x).toNat = k.val →
    CompletesAtPc (.skp x) s ((s.pc.toNat + if s.keyDown k then 4 else 2) % 65536) ∧
    CompletesAtPc (.sknp x) s ((s.pc.toNat + if s.keyDown k then 2 else 4) % 65536)

/-- With V[x] above 15, SKP and SKNP halt with the value (44_input.md section 2; the spec's own decision D16). -/
def Obligations.KeyIndexHalts : Prop :=
  ∀ (s : State) (x : Reg), 15 < (s.readV x).toNat →
    HaltsWith (.skp x) s (.undefinedOperand (.keyIndex (s.readV x)) (BitVec.ofNat 16 (0xE09E + 0x100 * x.val))) ∧
    HaltsWith (.sknp x) s (.undefinedOperand (.keyIndex (s.readV x)) (BitVec.ofNat 16 (0xE0A1 + 0x100 * x.val)))

/-- With a key down, the smallest one goes to V[x] and the PC is advanced by 2 (44_input.md section 2; the write to V[x] is
the spec's general knowledge G5 and the choice of the key its own decision D17). -/
def Obligations.WaitKeyTakesLowest : Prop :=
  ∀ (s : State) (x : Reg) (k : Fin 16), s.keyDown k = true → (∀ j : Fin 16, j < k → s.keyDown j = false) →
    CompletesWithRegs (.ldVxK x) s fun r => if r = x then k.val else (s.readV r).toNat

/-- With no key down, the state does not change: the instruction runs again (44_input.md section 2). -/
def Obligations.WaitKeyWaits : Prop :=
  ∀ (s : State) (x : Reg), (∀ k : Fin 16, s.keyDown k = false) → exec (.ldVxK x) s = .next s

/-! ### The other agents (60_exceptions.md section 5) -/

/-- Both timers count down in one step, floored at 0, and nothing else of the core changes (60_exceptions.md section 4; that
one step takes both is the spec's own decision D36, log 11). -/
def Obligations.TickCountsDown : Prop :=
  ∀ (s : State) (rest : List Turn), s.env.schedule = .tick :: rest → ∃ t, step s = .next t ∧
    t.dt.toNat = s.dt.toNat - 1 ∧ t.st.toNat = s.st.toNat - 1 ∧ t.pc = s.pc ∧ t.i = s.i ∧ s.SameRegs t ∧
    s.SameMemory t ∧ s.SameStack t ∧ s.SameDisplay t ∧ t.lastPress = s.lastPress ∧ t.cfg = s.cfg ∧
    t.status = s.status ∧ t.env.schedule = rest

/-- A press no earlier than any recorded one fills its own key's slot, a key index above 15 none, and nothing else of the
core changes (44_input.md section 1; the spec's own decisions D24 and D40). -/
def Obligations.PressRecords : Prop :=
  ∀ (s : State) (k time : Nat) (rest : List Turn), s.env.schedule = .press k time :: rest →
    (∀ (j : Fin 16) (p : Nat), s.lastPress[j] = some p → p ≤ time) → ∃ t, step s = .next t ∧
      (∀ j : Fin 16, t.lastPress[j] = if j.val = k then some time else s.lastPress[j]) ∧ t.pc = s.pc ∧ t.i = s.i ∧
      s.SameRegs t ∧ s.SameMemory t ∧ s.SameStack t ∧ s.SameTimers t ∧ s.SameDisplay t ∧ t.cfg = s.cfg ∧
      t.status = s.status ∧ t.env.schedule = rest

/-- A present copies BACK to FRONT and clears DIRTY, answers whether a redraw was warranted, and nothing else of the core
changes (43_display.md section 2; that it copies is the spec's own decision D20). -/
def Obligations.PresentCopies : Prop :=
  ∀ (s : State) (rest : List Turn), s.env.schedule = .present :: rest → ∃ t, step s = .next t ∧
    s.present.1 = s.dirty ∧ (∀ x y, t.getPixel .front x y = s.getPixel .back x y) ∧ t.back = s.back ∧
    t.dirty = false ∧ t.pc = s.pc ∧ t.i = s.i ∧ s.SameRegs t ∧ s.SameMemory t ∧ s.SameStack t ∧ s.SameTimers t ∧
    t.lastPress = s.lastPress ∧ t.cfg = s.cfg ∧ t.status = s.status ∧ t.env.schedule = rest

/-! ### The cycle (40_control_flow.md section 1, 20_memory.md section 2) -/

/-- A step of a running core whose word at the PC decodes is `exec` of that instruction, at the state with this step's
inputs: the schedule's, where it names them, or free ones (40_control_flow.md section 1; the inputs are the model's
fields, log 1 and 2). -/
def Obligations.StepRunsDecoded : Prop :=
  ∀ (s : State) (w : Word) (i : Instr), s.status = .running → s.fetch = .ok w → decode w = some i →
    (s.env.schedule = [] → step s = exec i s.withFreeInputs) ∧
    (∀ now draw rest, s.env.schedule = .executor now draw :: rest → s.latestPress ≤ now → s.env.now ≤ now →
      step s = exec i ((s.setSchedule rest).withInputs now draw))

/-- The Executor's step of a running core whose fetch raises a cause, or whose word is illegal, halts it with that cause,
and changes nothing else (40_control_flow.md section 1, 60_exceptions.md sections 1 and 2; the halt record is the spec's
own decision D26, log 8). -/
def Obligations.FetchAndIllegalHalt : Prop :=
  ∀ s : State, s.status = .running →
    (∀ c, s.fetch = .error c → s.execStep = .next { s with status := .halted c s.pc }) ∧
    (∀ w, s.fetch = .ok w → decode w = none →
      s.execStep = .next { s with status := .halted (.illegalOpcode w) s.pc })

/-- An odd PC raises MisalignedPC, an even one at or above 0xFFF AddressOutOfRange, and any other gives the word with the byte
at the lower address first (20_memory.md section 2; that these raise is the spec's own decisions D6 and D7, log 12). -/
def Obligations.FetchBigEndian : Prop :=
  ∀ s : State,
    (s.pc.toNat % 2 = 1 → s.fetch = .error .misalignedPC) ∧
    (s.pc.toNat % 2 = 0 → 0x1000 ≤ s.pc.toNat + 1 → s.fetch = .error (.addressOutOfRange s.pc.toNat none)) ∧
    (s.pc.toNat % 2 = 0 → s.pc.toNat + 1 < 0x1000 → ∃ w, s.fetch = .ok w ∧
      w.toNat = 256 * (s.readByte s.pc.toNat).toNat + (s.readByte (s.pc.toNat + 1)).toNat)

/-- A halted core has no Executor step, and every step another agent takes leaves it halted with the same record
(60_exceptions.md section 2; the spec's own decision D29, log 8). -/
def Obligations.HaltIsTerminal : Prop :=
  ∀ (s : State) (c : Cause) (pc : Word), s.status = .halted c pc →
    s.execStep = .fault (.halted c pc) ∧ ∀ t, step s = .next t → t.status = .halted c pc

/-- An instruction that does not redirect control flow, when it does not halt, leaves the PC advanced by 2
(40_control_flow.md section 1). -/
def Obligations.AdvanceByTwo : Prop :=
  ∀ (i : Instr) (s t : State), redirects i = false → s.status = .running → exec i s = .next t →
    t.status = .running → t.pc = s.pc + 2

/-- Every instruction answers a next state in every state, and that state either keeps STATUS or is the state before with
STATUS alone changed to a halt record at the PC (60_exceptions.md section 2; the spec's own decision D27, log 8). -/
def Obligations.HaltIsPrecise : Prop :=
  ∀ (i : Instr) (s : State), ∃ t, exec i s = .next t ∧
    (t.status = s.status ∨ ∃ c, t = { s with status := .halted c s.pc })

/-- A store into the code is what the next fetch reads: `Fx55` with x of at least 1 and I the address of the next
instruction (20_memory.md section 3). -/
def Obligations.StoreIsFetchedNext : Prop :=
  ∀ (s t : State) (x : Reg), 1 ≤ x.val → s.i = s.pc + 2 → s.pc.toNat % 2 = 0 → s.status = .running →
    exec (.stRegs x) s = .next t → t.status = .running → t.fetch = .ok (joinBytes (s.readV 0) (s.readV 1))

/-! ### What no instruction changes (10_state.md, 20_memory.md section 1) -/

/-- An instruction changes no general register but those `mayWriteV` names: its destination, and VF where it writes a flag
(10_state.md section 2). -/
def Obligations.RegisterFrame : Prop :=
  ∀ (i : Instr) (s t : State) (r : Reg), exec i s = .next t → mayWriteV i r = false → t.readV r = s.readV r

/-- No instruction but `Fx33` and `Fx55` changes any byte of memory, and these two change none outside the bytes at
`dataAddr` 0 to 2, and 0 to x (20_memory.md section 1). -/
def Obligations.MemoryFrame : Prop :=
  ∀ (i : Instr) (s t : State), exec i s = .next t → ∀ a,
    (∀ x, i = .ldBVx x → ∀ k, k < 3 → a ≠ s.dataAddr k) →
    (∀ x, i = .stRegs x → ∀ k, k ≤ x.val → a ≠ s.dataAddr k) → t.readByte a = s.readByte a

/-- The writers of the special registers (10_state.md sections 3 and 4): only 2nnn writes the stack; only 2nnn and 00EE
change SP; only Fx15 writes DT and only Fx18 writes ST; only 00E0 and Dxyn write BACK and DIRTY, and no instruction writes
FRONT; only Annn, Fx1E and Fx29, and Fx55 and Fx65 where LOADSTORE_I_INCREMENT is set, write I; no instruction writes the
key slots, the parameters or the environment's inputs. -/
def Obligations.SpecialRegisterFrame : Prop :=
  ∀ (i : Instr) (s t : State), exec i s = .next t →
    ((∀ nnn, i ≠ .call nnn) → t.stack = s.stack) ∧
    ((∀ nnn, i ≠ .call nnn) → i ≠ .ret → t.sp = s.sp) ∧
    ((∀ x, i ≠ .ldDtVx x) → t.dt = s.dt) ∧
    ((∀ x, i ≠ .ldStVx x) → t.st = s.st) ∧
    (i ≠ .cls → (∀ x y n, i ≠ .drw x y n) → t.back = s.back ∧ t.dirty = s.dirty) ∧
    t.front = s.front ∧
    ((∀ nnn, i ≠ .ldI nnn) → (∀ x, i ≠ .addIVx x ∧ i ≠ .ldFVx x) →
      (s.cfg.loadStoreIncrement = true → ∀ x, i ≠ .stRegs x ∧ i ≠ .ldRegs x) → t.i = s.i) ∧
    t.lastPress = s.lastPress ∧ t.cfg = s.cfg ∧ t.env = s.env

/-- What an instruction computes depends on the random byte only for RND, and on the timestamp only for the key
instructions: with another byte or another time, any other instruction answers the same state but for that input
(41_register_alu.md section 7, 44_input.md section 1, 60_exceptions.md section 5). -/
def Obligations.InputsReadOnlyWhereSaid : Prop :=
  ∀ (i : Instr) (s t : State) (now : Nat) (draw : Byte), exec i s = .next t →
    ((∀ x kk, i ≠ .rnd x kk) →
      exec i { s with env := { s.env with draw := draw } } = .next { t with env := { t.env with draw := draw } }) ∧
    ((∀ x, i ≠ .skp x ∧ i ≠ .sknp x ∧ i ≠ .ldVxK x) →
      exec i { s with env := { s.env with now := now } } = .next { t with env := { t.env with now := now } })

/-! ### Creation (70_reset_and_hazards.md section 1, 10_state.md section 6) -/

/-- What the core holds after reset: every register of MachineState zero but the PC, the font at FONT_BASE and zero
elsewhere in memory, blank planes, no press, running (10_state.md section 6; the display, input and status values are the
spec's own decisions D21, D22 and D26, and the parameters take their defaults, log 5). -/
def Obligations.ResetValues : Prop :=
  let s := State.reset
  (∀ r, s.readV r = 0) ∧ s.i = 0 ∧ s.pc = 0x200 ∧ s.sp = 0 ∧ (∀ k : Fin 16, s.stack[k] = 0) ∧ s.dt = 0 ∧ s.st = 0 ∧
  (∀ k : Fin 80, s.readByte (s.cfg.fontBase.val + k.val) = s.cfg.font[k]) ∧
  (∀ a, (a < s.cfg.fontBase.val ∨ s.cfg.fontBase.val + 80 ≤ a) → s.readByte a = 0) ∧
  (∀ x y, s.getPixel .back x y = false ∧ s.getPixel .front x y = false) ∧ s.dirty = false ∧
  (∀ k : Fin 16, s.lastPress[k] = none) ∧ s.status = .running

/-- A program of at most 3584 bytes is placed at 0x200 and the rest of memory stays as at creation, for every choice of the
parameters, in a state that meets the invariant; a longer one is refused (70_reset_and_hazards.md section 1; the limit is
the spec's own decision D32). -/
def Obligations.CreateLoadsProgram : Prop :=
  ∀ (c : Config) (program : List Byte),
    (program.length ≤ 3584 → ∃ t, State.create c program = .next t ∧
      (∀ k, (h : k < program.length) → t.readByte (0x200 + k) = program[k]) ∧
      (∀ a, (a < 0x200 ∨ 0x200 + program.length ≤ a) → t.readByte a = Memory.unlisted c a) ∧
      t.pc = 0x200 ∧ t.cfg = c ∧ t.status = .running ∧ t.Inv) ∧
    (3584 < program.length → State.create c program = .refused .programTooLong)

/-! ### The invariant and the end of a program -/

/-- The core right after reset meets the invariant. -/
def Obligations.ResetMeetsInvariant : Prop := State.reset.Inv

/-- Every step of every agent keeps the invariant: memory in canonical form, the reserved region as at creation under the
policy `fault`, live return addresses even and at most 0x1000, and a halt record that names the PC (20_memory.md
section 2, 40_control_flow.md sections 1 and 2, 60_exceptions.md section 2). -/
def Obligations.StepKeepsInvariant : Prop := ∀ s t : State, s.Inv → step s = .next t → t.Inv

/-- A parked core stays parked, and its step, whichever agent's, leaves the registers, I, the PC, memory, the stack and
BACK as they are (60_exceptions.md section 6; taking this as the end of a program is the spec's own decision D29). -/
def Obligations.ParkedStaysParked : Prop :=
  ∀ s t : State, s.Parked → step s = .next t →
    t.Parked ∧ t.pc = s.pc ∧ t.i = s.i ∧ s.SameRegs t ∧ s.SameMemory t ∧ s.SameStack t ∧ t.back = s.back
end

