-- ==== Sys2Proof/Laws/Decode.lean ====
section
/-! SUPPORT. The laws of joining and taking apart nibbles, bytes and words, and the fields of each form of word. -/

namespace Sys2Proof

@[simp] theorem regOfNibble_nibbleOfReg (x : Reg) : regOfNibble (nibbleOfReg x) = x := by
  revert x
  decide

@[simp] theorem nibbleOfReg_regOfNibble (n : Nibble) : nibbleOfReg (regOfNibble n) = n := by
  simp [nibbleOfReg, regOfNibble]

@[simp] theorem high_joinNibbles (a b : Nibble) : (joinNibbles a b).extractLsb' 4 4 = a := by
  ext i hi; simp [joinNibbles]; grind

@[simp] theorem low_joinNibbles (a b : Nibble) : (joinNibbles a b).extractLsb' 0 4 = b := by
  ext i hi; simp [joinNibbles]; grind

@[simp] theorem nibble3_joinBytes (a b : Byte) : (joinBytes a b).extractLsb' 12 4 = a.extractLsb' 4 4 := by
  ext i hi; simp [joinBytes]; grind

@[simp] theorem nibble2_joinBytes (a b : Byte) : (joinBytes a b).extractLsb' 8 4 = a.extractLsb' 0 4 := by
  ext i hi; simp [joinBytes]; grind

@[simp] theorem nibble1_joinBytes (a b : Byte) : (joinBytes a b).extractLsb' 4 4 = b.extractLsb' 4 4 := by
  ext i hi; simp [joinBytes]; grind

@[simp] theorem nibble0_joinBytes (a b : Byte) : (joinBytes a b).extractLsb' 0 4 = b.extractLsb' 0 4 := by
  ext i hi; simp [joinBytes]; grind

@[simp] theorem low_joinBytes (a b : Byte) : (joinBytes a b).extractLsb' 0 8 = b := by
  ext i hi; simp [joinBytes]; grind

@[simp] theorem high_joinBytes (a b : Byte) : (joinBytes a b).extractLsb' 8 8 = a := by
  ext i hi; simp [joinBytes]; grind

@[simp] theorem addr_joinBytes (a b : Byte) : (joinBytes a b).extractLsb' 0 12 = joinAddr (a.extractLsb' 0 4) b := by
  ext i hi; simp [joinBytes, joinAddr]; grind

theorem joinBytes_eta (w : Word) : joinBytes (w.extractLsb' 8 8) (w.extractLsb' 0 8) = w := by
  ext i hi; simp [joinBytes]; grind

theorem joinNibbles_eta (b : Byte) : joinNibbles (b.extractLsb' 4 4) (b.extractLsb' 0 4) = b := by
  ext i hi; simp [joinNibbles]; grind

@[simp] theorem joinAddr_eta (a : Addr12) : joinAddr (a.extractLsb' 8 4) (a.extractLsb' 0 8) = a := by
  ext i hi; simp [joinAddr]; grind

@[simp] theorem high_joinAddr (a : Nibble) (b : Byte) : (joinAddr a b).extractLsb' 8 4 = a := by
  ext i hi; simp [joinAddr]; grind

@[simp] theorem low_joinAddr (a : Nibble) (b : Byte) : (joinAddr a b).extractLsb' 0 8 = b := by
  ext i hi; simp [joinAddr]; grind

/-- A word is its four nibbles. -/
theorem word_of_nibbles (w : Word) :
    joinBytes (joinNibbles (w.extractLsb' 12 4) (w.extractLsb' 8 4))
      (joinNibbles (w.extractLsb' 4 4) (w.extractLsb' 0 4)) = w := by
  ext i hi; simp [joinBytes, joinNibbles]; grind

theorem joinBytes_toNat (a b : Byte) : (joinBytes a b).toNat = 256 * a.toNat + b.toNat := by
  have h : joinBytes a b = a ++ b := by
    ext i hi; simp [joinBytes]; grind
  rw [h, BitVec.toNat_append, Nat.shiftLeft_eq, Nat.mul_comm, ← Nat.two_pow_add_eq_or_of_lt b.isLt]

theorem joinNibbles_toNat (a b : Nibble) : (joinNibbles a b).toNat = 16 * a.toNat + b.toNat := by
  have h : joinNibbles a b = a ++ b := by
    ext i hi; simp [joinNibbles]; grind
  rw [h, BitVec.toNat_append, Nat.shiftLeft_eq, Nat.mul_comm, ← Nat.two_pow_add_eq_or_of_lt b.isLt]

@[simp] theorem nibbleOfReg_toNat (x : Reg) : (nibbleOfReg x).toNat = x.val := by
  simp [nibbleOfReg]

/-! ### The forms of a word as numbers (30_encoding.md R104) -/

theorem wordNnn_eq_ofNat (op : Nibble) (nnn : Addr12) :
    wordNnn op nnn = BitVec.ofNat 16 (0x1000 * op.toNat + nnn.toNat) := by
  apply BitVec.eq_of_toNat_eq
  have ho := op.isLt
  have hn := nnn.isLt
  rw [wordNnn, joinBytes_toNat, joinNibbles_toNat]
  simp [BitVec.extractLsb'_toNat, Nat.shiftRight_eq_div_pow]
  omega

theorem wordXkk_eq_ofNat (op : Nibble) (x : Reg) (kk : Byte) :
    wordXkk op x kk = BitVec.ofNat 16 (0x1000 * op.toNat + 0x100 * x.val + kk.toNat) := by
  apply BitVec.eq_of_toNat_eq
  have ho := op.isLt
  have hx := x.isLt
  have hk := kk.isLt
  rw [wordXkk, joinBytes_toNat, joinNibbles_toNat, nibbleOfReg_toNat]
  simp
  omega

theorem wordXyn_eq_ofNat (op : Nibble) (x y : Reg) (n : Nibble) :
    wordXyn op x y n = BitVec.ofNat 16 (0x1000 * op.toNat + 0x100 * x.val + 0x10 * y.val + n.toNat) := by
  have h := wordXkk_eq_ofNat op x (joinNibbles (nibbleOfReg y) n)
  rw [wordXkk] at h
  rw [wordXyn, h, joinNibbles_toNat, nibbleOfReg_toNat]
  congr 1
  omega

/-! ### The fields of each form of word (30_encoding.md R101) -/

@[simp] theorem fieldsOf_wordNnn (op : Nibble) (nnn : Addr12) : (fieldsOf (wordNnn op nnn)).nnn = nnn := by
  simp [fieldsOf, wordNnn]

@[simp] theorem fieldsOf_wordXkk_x (op : Nibble) (x : Reg) (kk : Byte) : (fieldsOf (wordXkk op x kk)).x = x := by
  simp [fieldsOf, wordXkk]

@[simp] theorem fieldsOf_wordXkk_kk (op : Nibble) (x : Reg) (kk : Byte) : (fieldsOf (wordXkk op x kk)).kk = kk := by
  simp [fieldsOf, wordXkk]

@[simp] theorem fieldsOf_wordXyn_x (op : Nibble) (x y : Reg) (n : Nibble) : (fieldsOf (wordXyn op x y n)).x = x := by
  simp [fieldsOf, wordXyn]

@[simp] theorem fieldsOf_wordXyn_y (op : Nibble) (x y : Reg) (n : Nibble) : (fieldsOf (wordXyn op x y n)).y = y := by
  simp [fieldsOf, wordXyn]

@[simp] theorem fieldsOf_wordXyn_n (op : Nibble) (x y : Reg) (n : Nibble) : (fieldsOf (wordXyn op x y n)).n = n := by
  simp [fieldsOf, wordXyn]

end Sys2Proof
end

