-- ==== Sys2Proof/Laws/State.lean ====
section
/-! SUPPORT. One lemma per field per update of State, true by rfl, so that no later proof unfolds a record update. -/

namespace Sys2Proof.Machine

variable (s : State)

/-! `writeByte` -/
@[simp] theorem State.writeByte_v (a : Nat) (b : Byte) : (s.writeByte a b).v = s.v := rfl
@[simp] theorem State.writeByte_i (a : Nat) (b : Byte) : (s.writeByte a b).i = s.i := rfl
@[simp] theorem State.writeByte_pc (a : Nat) (b : Byte) : (s.writeByte a b).pc = s.pc := rfl
@[simp] theorem State.writeByte_stack (a : Nat) (b : Byte) : (s.writeByte a b).stack = s.stack := rfl
@[simp] theorem State.writeByte_sp (a : Nat) (b : Byte) : (s.writeByte a b).sp = s.sp := rfl
@[simp] theorem State.writeByte_dt (a : Nat) (b : Byte) : (s.writeByte a b).dt = s.dt := rfl
@[simp] theorem State.writeByte_st (a : Nat) (b : Byte) : (s.writeByte a b).st = s.st := rfl
@[simp] theorem State.writeByte_mem (a : Nat) (b : Byte) : (s.writeByte a b).mem = Memory.write s.cfg s.mem a b := rfl
@[simp] theorem State.writeByte_back (a : Nat) (b : Byte) : (s.writeByte a b).back = s.back := rfl
@[simp] theorem State.writeByte_front (a : Nat) (b : Byte) : (s.writeByte a b).front = s.front := rfl
@[simp] theorem State.writeByte_dirty (a : Nat) (b : Byte) : (s.writeByte a b).dirty = s.dirty := rfl
@[simp] theorem State.writeByte_lastPress (a : Nat) (b : Byte) : (s.writeByte a b).lastPress = s.lastPress := rfl
@[simp] theorem State.writeByte_status (a : Nat) (b : Byte) : (s.writeByte a b).status = s.status := rfl
@[simp] theorem State.writeByte_cfg (a : Nat) (b : Byte) : (s.writeByte a b).cfg = s.cfg := rfl
@[simp] theorem State.writeByte_env (a : Nat) (b : Byte) : (s.writeByte a b).env = s.env := rfl
@[simp] theorem State.writeByte_readV (a : Nat) (b : Byte) (r : Reg) : (s.writeByte a b).readV r = s.readV r := rfl

/-! `setI` -/
@[simp] theorem State.setI_v (a : Word) : (s.setI a).v = s.v := rfl
@[simp] theorem State.setI_i (a : Word) : (s.setI a).i = a := rfl
@[simp] theorem State.setI_pc (a : Word) : (s.setI a).pc = s.pc := rfl
@[simp] theorem State.setI_stack (a : Word) : (s.setI a).stack = s.stack := rfl
@[simp] theorem State.setI_sp (a : Word) : (s.setI a).sp = s.sp := rfl
@[simp] theorem State.setI_dt (a : Word) : (s.setI a).dt = s.dt := rfl
@[simp] theorem State.setI_st (a : Word) : (s.setI a).st = s.st := rfl
@[simp] theorem State.setI_mem (a : Word) : (s.setI a).mem = s.mem := rfl
@[simp] theorem State.setI_back (a : Word) : (s.setI a).back = s.back := rfl
@[simp] theorem State.setI_front (a : Word) : (s.setI a).front = s.front := rfl
@[simp] theorem State.setI_dirty (a : Word) : (s.setI a).dirty = s.dirty := rfl
@[simp] theorem State.setI_lastPress (a : Word) : (s.setI a).lastPress = s.lastPress := rfl
@[simp] theorem State.setI_status (a : Word) : (s.setI a).status = s.status := rfl
@[simp] theorem State.setI_cfg (a : Word) : (s.setI a).cfg = s.cfg := rfl
@[simp] theorem State.setI_env (a : Word) : (s.setI a).env = s.env := rfl
@[simp] theorem State.setI_readByte (a : Word) (k : Nat) : (s.setI a).readByte k = s.readByte k := rfl
@[simp] theorem State.setI_readV (a : Word) (r : Reg) : (s.setI a).readV r = s.readV r := rfl

/-! `setPc` -/
@[simp] theorem State.setPc_v (a : Word) : (s.setPc a).v = s.v := rfl
@[simp] theorem State.setPc_i (a : Word) : (s.setPc a).i = s.i := rfl
@[simp] theorem State.setPc_pc (a : Word) : (s.setPc a).pc = a := rfl
@[simp] theorem State.setPc_stack (a : Word) : (s.setPc a).stack = s.stack := rfl
@[simp] theorem State.setPc_sp (a : Word) : (s.setPc a).sp = s.sp := rfl
@[simp] theorem State.setPc_dt (a : Word) : (s.setPc a).dt = s.dt := rfl
@[simp] theorem State.setPc_st (a : Word) : (s.setPc a).st = s.st := rfl
@[simp] theorem State.setPc_mem (a : Word) : (s.setPc a).mem = s.mem := rfl
@[simp] theorem State.setPc_back (a : Word) : (s.setPc a).back = s.back := rfl
@[simp] theorem State.setPc_front (a : Word) : (s.setPc a).front = s.front := rfl
@[simp] theorem State.setPc_dirty (a : Word) : (s.setPc a).dirty = s.dirty := rfl
@[simp] theorem State.setPc_lastPress (a : Word) : (s.setPc a).lastPress = s.lastPress := rfl
@[simp] theorem State.setPc_status (a : Word) : (s.setPc a).status = s.status := rfl
@[simp] theorem State.setPc_cfg (a : Word) : (s.setPc a).cfg = s.cfg := rfl
@[simp] theorem State.setPc_env (a : Word) : (s.setPc a).env = s.env := rfl
@[simp] theorem State.setPc_readByte (a : Word) (k : Nat) : (s.setPc a).readByte k = s.readByte k := rfl
@[simp] theorem State.setPc_readV (a : Word) (r : Reg) : (s.setPc a).readV r = s.readV r := rfl

/-! `advance` -/
@[simp] theorem State.advance_v : (s.advance).v = s.v := rfl
@[simp] theorem State.advance_i : (s.advance).i = s.i := rfl
@[simp] theorem State.advance_pc : (s.advance).pc = s.pc + 2 := rfl
@[simp] theorem State.advance_stack : (s.advance).stack = s.stack := rfl
@[simp] theorem State.advance_sp : (s.advance).sp = s.sp := rfl
@[simp] theorem State.advance_dt : (s.advance).dt = s.dt := rfl
@[simp] theorem State.advance_st : (s.advance).st = s.st := rfl
@[simp] theorem State.advance_mem : (s.advance).mem = s.mem := rfl
@[simp] theorem State.advance_back : (s.advance).back = s.back := rfl
@[simp] theorem State.advance_front : (s.advance).front = s.front := rfl
@[simp] theorem State.advance_dirty : (s.advance).dirty = s.dirty := rfl
@[simp] theorem State.advance_lastPress : (s.advance).lastPress = s.lastPress := rfl
@[simp] theorem State.advance_status : (s.advance).status = s.status := rfl
@[simp] theorem State.advance_cfg : (s.advance).cfg = s.cfg := rfl
@[simp] theorem State.advance_env : (s.advance).env = s.env := rfl
@[simp] theorem State.advance_readByte (k : Nat) : (s.advance).readByte k = s.readByte k := rfl
@[simp] theorem State.advance_readV (r : Reg) : (s.advance).readV r = s.readV r := rfl

/-! `skipIf` -/
@[simp] theorem State.skipIf_v (taken : Bool) : (s.skipIf taken).v = s.v := rfl
@[simp] theorem State.skipIf_i (taken : Bool) : (s.skipIf taken).i = s.i := rfl
@[simp] theorem State.skipIf_pc (taken : Bool) : (s.skipIf taken).pc = if taken then s.pc + 4 else s.pc + 2 := rfl
@[simp] theorem State.skipIf_stack (taken : Bool) : (s.skipIf taken).stack = s.stack := rfl
@[simp] theorem State.skipIf_sp (taken : Bool) : (s.skipIf taken).sp = s.sp := rfl
@[simp] theorem State.skipIf_dt (taken : Bool) : (s.skipIf taken).dt = s.dt := rfl
@[simp] theorem State.skipIf_st (taken : Bool) : (s.skipIf taken).st = s.st := rfl
@[simp] theorem State.skipIf_mem (taken : Bool) : (s.skipIf taken).mem = s.mem := rfl
@[simp] theorem State.skipIf_back (taken : Bool) : (s.skipIf taken).back = s.back := rfl
@[simp] theorem State.skipIf_front (taken : Bool) : (s.skipIf taken).front = s.front := rfl
@[simp] theorem State.skipIf_dirty (taken : Bool) : (s.skipIf taken).dirty = s.dirty := rfl
@[simp] theorem State.skipIf_lastPress (taken : Bool) : (s.skipIf taken).lastPress = s.lastPress := rfl
@[simp] theorem State.skipIf_status (taken : Bool) : (s.skipIf taken).status = s.status := rfl
@[simp] theorem State.skipIf_cfg (taken : Bool) : (s.skipIf taken).cfg = s.cfg := rfl
@[simp] theorem State.skipIf_env (taken : Bool) : (s.skipIf taken).env = s.env := rfl
@[simp] theorem State.skipIf_readByte (taken : Bool) (k : Nat) : (s.skipIf taken).readByte k = s.readByte k := rfl
@[simp] theorem State.skipIf_readV (taken : Bool) (r : Reg) : (s.skipIf taken).readV r = s.readV r := rfl

/-! `push` -/
@[simp] theorem State.push_v (a : Word) (room : s.sp.val < 16) : (s.push a room).v = s.v := rfl
@[simp] theorem State.push_i (a : Word) (room : s.sp.val < 16) : (s.push a room).i = s.i := rfl
@[simp] theorem State.push_pc (a : Word) (room : s.sp.val < 16) : (s.push a room).pc = s.pc := rfl
@[simp] theorem State.push_stack (a : Word) (room : s.sp.val < 16) : (s.push a room).stack = s.stack.set s.sp.val a room := rfl
@[simp] theorem State.push_sp (a : Word) (room : s.sp.val < 16) : (s.push a room).sp = ⟨s.sp.val + 1, by omega⟩ := rfl
@[simp] theorem State.push_dt (a : Word) (room : s.sp.val < 16) : (s.push a room).dt = s.dt := rfl
@[simp] theorem State.push_st (a : Word) (room : s.sp.val < 16) : (s.push a room).st = s.st := rfl
@[simp] theorem State.push_mem (a : Word) (room : s.sp.val < 16) : (s.push a room).mem = s.mem := rfl
@[simp] theorem State.push_back (a : Word) (room : s.sp.val < 16) : (s.push a room).back = s.back := rfl
@[simp] theorem State.push_front (a : Word) (room : s.sp.val < 16) : (s.push a room).front = s.front := rfl
@[simp] theorem State.push_dirty (a : Word) (room : s.sp.val < 16) : (s.push a room).dirty = s.dirty := rfl
@[simp] theorem State.push_lastPress (a : Word) (room : s.sp.val < 16) : (s.push a room).lastPress = s.lastPress := rfl
@[simp] theorem State.push_status (a : Word) (room : s.sp.val < 16) : (s.push a room).status = s.status := rfl
@[simp] theorem State.push_cfg (a : Word) (room : s.sp.val < 16) : (s.push a room).cfg = s.cfg := rfl
@[simp] theorem State.push_env (a : Word) (room : s.sp.val < 16) : (s.push a room).env = s.env := rfl
@[simp] theorem State.push_readByte (a : Word) (room : s.sp.val < 16) (k : Nat) : (s.push a room).readByte k = s.readByte k := rfl
@[simp] theorem State.push_readV (a : Word) (room : s.sp.val < 16) (r : Reg) : (s.push a room).readV r = s.readV r := rfl

/-! `drop` -/
@[simp] theorem State.drop_v : (s.drop).v = s.v := rfl
@[simp] theorem State.drop_i : (s.drop).i = s.i := rfl
@[simp] theorem State.drop_pc : (s.drop).pc = s.pc := rfl
@[simp] theorem State.drop_stack : (s.drop).stack = s.stack := rfl
@[simp] theorem State.drop_sp : (s.drop).sp = ⟨s.sp.val - 1, by have := s.sp.isLt; omega⟩ := rfl
@[simp] theorem State.drop_dt : (s.drop).dt = s.dt := rfl
@[simp] theorem State.drop_st : (s.drop).st = s.st := rfl
@[simp] theorem State.drop_mem : (s.drop).mem = s.mem := rfl
@[simp] theorem State.drop_back : (s.drop).back = s.back := rfl
@[simp] theorem State.drop_front : (s.drop).front = s.front := rfl
@[simp] theorem State.drop_dirty : (s.drop).dirty = s.dirty := rfl
@[simp] theorem State.drop_lastPress : (s.drop).lastPress = s.lastPress := rfl
@[simp] theorem State.drop_status : (s.drop).status = s.status := rfl
@[simp] theorem State.drop_cfg : (s.drop).cfg = s.cfg := rfl
@[simp] theorem State.drop_env : (s.drop).env = s.env := rfl
@[simp] theorem State.drop_readByte (k : Nat) : (s.drop).readByte k = s.readByte k := rfl
@[simp] theorem State.drop_readV (r : Reg) : (s.drop).readV r = s.readV r := rfl

/-! `setDt` -/
@[simp] theorem State.setDt_v (b : Byte) : (s.setDt b).v = s.v := rfl
@[simp] theorem State.setDt_i (b : Byte) : (s.setDt b).i = s.i := rfl
@[simp] theorem State.setDt_pc (b : Byte) : (s.setDt b).pc = s.pc := rfl
@[simp] theorem State.setDt_stack (b : Byte) : (s.setDt b).stack = s.stack := rfl
@[simp] theorem State.setDt_sp (b : Byte) : (s.setDt b).sp = s.sp := rfl
@[simp] theorem State.setDt_dt (b : Byte) : (s.setDt b).dt = b := rfl
@[simp] theorem State.setDt_st (b : Byte) : (s.setDt b).st = s.st := rfl
@[simp] theorem State.setDt_mem (b : Byte) : (s.setDt b).mem = s.mem := rfl
@[simp] theorem State.setDt_back (b : Byte) : (s.setDt b).back = s.back := rfl
@[simp] theorem State.setDt_front (b : Byte) : (s.setDt b).front = s.front := rfl
@[simp] theorem State.setDt_dirty (b : Byte) : (s.setDt b).dirty = s.dirty := rfl
@[simp] theorem State.setDt_lastPress (b : Byte) : (s.setDt b).lastPress = s.lastPress := rfl
@[simp] theorem State.setDt_status (b : Byte) : (s.setDt b).status = s.status := rfl
@[simp] theorem State.setDt_cfg (b : Byte) : (s.setDt b).cfg = s.cfg := rfl
@[simp] theorem State.setDt_env (b : Byte) : (s.setDt b).env = s.env := rfl
@[simp] theorem State.setDt_readByte (b : Byte) (k : Nat) : (s.setDt b).readByte k = s.readByte k := rfl
@[simp] theorem State.setDt_readV (b : Byte) (r : Reg) : (s.setDt b).readV r = s.readV r := rfl

/-! `setSt` -/
@[simp] theorem State.setSt_v (b : Byte) : (s.setSt b).v = s.v := rfl
@[simp] theorem State.setSt_i (b : Byte) : (s.setSt b).i = s.i := rfl
@[simp] theorem State.setSt_pc (b : Byte) : (s.setSt b).pc = s.pc := rfl
@[simp] theorem State.setSt_stack (b : Byte) : (s.setSt b).stack = s.stack := rfl
@[simp] theorem State.setSt_sp (b : Byte) : (s.setSt b).sp = s.sp := rfl
@[simp] theorem State.setSt_dt (b : Byte) : (s.setSt b).dt = s.dt := rfl
@[simp] theorem State.setSt_st (b : Byte) : (s.setSt b).st = b := rfl
@[simp] theorem State.setSt_mem (b : Byte) : (s.setSt b).mem = s.mem := rfl
@[simp] theorem State.setSt_back (b : Byte) : (s.setSt b).back = s.back := rfl
@[simp] theorem State.setSt_front (b : Byte) : (s.setSt b).front = s.front := rfl
@[simp] theorem State.setSt_dirty (b : Byte) : (s.setSt b).dirty = s.dirty := rfl
@[simp] theorem State.setSt_lastPress (b : Byte) : (s.setSt b).lastPress = s.lastPress := rfl
@[simp] theorem State.setSt_status (b : Byte) : (s.setSt b).status = s.status := rfl
@[simp] theorem State.setSt_cfg (b : Byte) : (s.setSt b).cfg = s.cfg := rfl
@[simp] theorem State.setSt_env (b : Byte) : (s.setSt b).env = s.env := rfl
@[simp] theorem State.setSt_readByte (b : Byte) (k : Nat) : (s.setSt b).readByte k = s.readByte k := rfl
@[simp] theorem State.setSt_readV (b : Byte) (r : Reg) : (s.setSt b).readV r = s.readV r := rfl

/-! `loadBlock` -/
@[simp] theorem State.loadBlock_i (a : Nat) (x : Reg) : (s.loadBlock a x).i = s.i := by simp only [State.loadBlock]
@[simp] theorem State.loadBlock_pc (a : Nat) (x : Reg) : (s.loadBlock a x).pc = s.pc := by simp only [State.loadBlock]
@[simp] theorem State.loadBlock_stack (a : Nat) (x : Reg) : (s.loadBlock a x).stack = s.stack := by simp only [State.loadBlock]
@[simp] theorem State.loadBlock_sp (a : Nat) (x : Reg) : (s.loadBlock a x).sp = s.sp := by simp only [State.loadBlock]
@[simp] theorem State.loadBlock_dt (a : Nat) (x : Reg) : (s.loadBlock a x).dt = s.dt := by simp only [State.loadBlock]
@[simp] theorem State.loadBlock_st (a : Nat) (x : Reg) : (s.loadBlock a x).st = s.st := by simp only [State.loadBlock]
@[simp] theorem State.loadBlock_mem (a : Nat) (x : Reg) : (s.loadBlock a x).mem = s.mem := by simp only [State.loadBlock]
@[simp] theorem State.loadBlock_back (a : Nat) (x : Reg) : (s.loadBlock a x).back = s.back := by simp only [State.loadBlock]
@[simp] theorem State.loadBlock_front (a : Nat) (x : Reg) : (s.loadBlock a x).front = s.front := by simp only [State.loadBlock]
@[simp] theorem State.loadBlock_dirty (a : Nat) (x : Reg) : (s.loadBlock a x).dirty = s.dirty := by simp only [State.loadBlock]
@[simp] theorem State.loadBlock_lastPress (a : Nat) (x : Reg) : (s.loadBlock a x).lastPress = s.lastPress := by simp only [State.loadBlock]
@[simp] theorem State.loadBlock_status (a : Nat) (x : Reg) : (s.loadBlock a x).status = s.status := by simp only [State.loadBlock]
@[simp] theorem State.loadBlock_cfg (a : Nat) (x : Reg) : (s.loadBlock a x).cfg = s.cfg := by simp only [State.loadBlock]
@[simp] theorem State.loadBlock_env (a : Nat) (x : Reg) : (s.loadBlock a x).env = s.env := by simp only [State.loadBlock]
@[simp] theorem State.loadBlock_readByte (a : Nat) (x : Reg) (k : Nat) : (s.loadBlock a x).readByte k = s.readByte k := by simp only [State.loadBlock, State.readByte]

/-! `halt` -/
@[simp] theorem State.halt_v (c : Cause) : (s.halt c).v = s.v := rfl
@[simp] theorem State.halt_i (c : Cause) : (s.halt c).i = s.i := rfl
@[simp] theorem State.halt_pc (c : Cause) : (s.halt c).pc = s.pc := rfl
@[simp] theorem State.halt_stack (c : Cause) : (s.halt c).stack = s.stack := rfl
@[simp] theorem State.halt_sp (c : Cause) : (s.halt c).sp = s.sp := rfl
@[simp] theorem State.halt_dt (c : Cause) : (s.halt c).dt = s.dt := rfl
@[simp] theorem State.halt_st (c : Cause) : (s.halt c).st = s.st := rfl
@[simp] theorem State.halt_mem (c : Cause) : (s.halt c).mem = s.mem := rfl
@[simp] theorem State.halt_back (c : Cause) : (s.halt c).back = s.back := rfl
@[simp] theorem State.halt_front (c : Cause) : (s.halt c).front = s.front := rfl
@[simp] theorem State.halt_dirty (c : Cause) : (s.halt c).dirty = s.dirty := rfl
@[simp] theorem State.halt_lastPress (c : Cause) : (s.halt c).lastPress = s.lastPress := rfl
@[simp] theorem State.halt_status (c : Cause) : (s.halt c).status = .halted c s.pc := rfl
@[simp] theorem State.halt_cfg (c : Cause) : (s.halt c).cfg = s.cfg := rfl
@[simp] theorem State.halt_env (c : Cause) : (s.halt c).env = s.env := rfl
@[simp] theorem State.halt_readByte (c : Cause) (k : Nat) : (s.halt c).readByte k = s.readByte k := rfl
@[simp] theorem State.halt_readV (c : Cause) (r : Reg) : (s.halt c).readV r = s.readV r := rfl

/-! `writeV` -/
@[simp] theorem State.writeV_v (x : Reg) (b : Byte) : (s.writeV x b).v = s.v.set x b := rfl
@[simp] theorem State.writeV_i (x : Reg) (b : Byte) : (s.writeV x b).i = s.i := rfl
@[simp] theorem State.writeV_pc (x : Reg) (b : Byte) : (s.writeV x b).pc = s.pc := rfl
@[simp] theorem State.writeV_stack (x : Reg) (b : Byte) : (s.writeV x b).stack = s.stack := rfl
@[simp] theorem State.writeV_sp (x : Reg) (b : Byte) : (s.writeV x b).sp = s.sp := rfl
@[simp] theorem State.writeV_dt (x : Reg) (b : Byte) : (s.writeV x b).dt = s.dt := rfl
@[simp] theorem State.writeV_st (x : Reg) (b : Byte) : (s.writeV x b).st = s.st := rfl
@[simp] theorem State.writeV_mem (x : Reg) (b : Byte) : (s.writeV x b).mem = s.mem := rfl
@[simp] theorem State.writeV_back (x : Reg) (b : Byte) : (s.writeV x b).back = s.back := rfl
@[simp] theorem State.writeV_front (x : Reg) (b : Byte) : (s.writeV x b).front = s.front := rfl
@[simp] theorem State.writeV_dirty (x : Reg) (b : Byte) : (s.writeV x b).dirty = s.dirty := rfl
@[simp] theorem State.writeV_lastPress (x : Reg) (b : Byte) : (s.writeV x b).lastPress = s.lastPress := rfl
@[simp] theorem State.writeV_status (x : Reg) (b : Byte) : (s.writeV x b).status = s.status := rfl
@[simp] theorem State.writeV_cfg (x : Reg) (b : Byte) : (s.writeV x b).cfg = s.cfg := rfl
@[simp] theorem State.writeV_env (x : Reg) (b : Byte) : (s.writeV x b).env = s.env := rfl
@[simp] theorem State.writeV_readByte (x : Reg) (b : Byte) (k : Nat) : (s.writeV x b).readByte k = s.readByte k := rfl

/-! `writeFlag` -/
@[simp] theorem State.writeFlag_i (f : Bool) : (s.writeFlag f).i = s.i := rfl
@[simp] theorem State.writeFlag_pc (f : Bool) : (s.writeFlag f).pc = s.pc := rfl
@[simp] theorem State.writeFlag_stack (f : Bool) : (s.writeFlag f).stack = s.stack := rfl
@[simp] theorem State.writeFlag_sp (f : Bool) : (s.writeFlag f).sp = s.sp := rfl
@[simp] theorem State.writeFlag_dt (f : Bool) : (s.writeFlag f).dt = s.dt := rfl
@[simp] theorem State.writeFlag_st (f : Bool) : (s.writeFlag f).st = s.st := rfl
@[simp] theorem State.writeFlag_mem (f : Bool) : (s.writeFlag f).mem = s.mem := rfl
@[simp] theorem State.writeFlag_back (f : Bool) : (s.writeFlag f).back = s.back := rfl
@[simp] theorem State.writeFlag_front (f : Bool) : (s.writeFlag f).front = s.front := rfl
@[simp] theorem State.writeFlag_dirty (f : Bool) : (s.writeFlag f).dirty = s.dirty := rfl
@[simp] theorem State.writeFlag_lastPress (f : Bool) : (s.writeFlag f).lastPress = s.lastPress := rfl
@[simp] theorem State.writeFlag_status (f : Bool) : (s.writeFlag f).status = s.status := rfl
@[simp] theorem State.writeFlag_cfg (f : Bool) : (s.writeFlag f).cfg = s.cfg := rfl
@[simp] theorem State.writeFlag_env (f : Bool) : (s.writeFlag f).env = s.env := rfl
@[simp] theorem State.writeFlag_readByte (f : Bool) (k : Nat) : (s.writeFlag f).readByte k = s.readByte k := rfl

/-! `writeResultFlag` -/
@[simp] theorem State.writeResultFlag_i (x : Reg) (b : Byte) (f : Bool) : (s.writeResultFlag x b f).i = s.i := rfl
@[simp] theorem State.writeResultFlag_pc (x : Reg) (b : Byte) (f : Bool) : (s.writeResultFlag x b f).pc = s.pc := rfl
@[simp] theorem State.writeResultFlag_stack (x : Reg) (b : Byte) (f : Bool) : (s.writeResultFlag x b f).stack = s.stack := rfl
@[simp] theorem State.writeResultFlag_sp (x : Reg) (b : Byte) (f : Bool) : (s.writeResultFlag x b f).sp = s.sp := rfl
@[simp] theorem State.writeResultFlag_dt (x : Reg) (b : Byte) (f : Bool) : (s.writeResultFlag x b f).dt = s.dt := rfl
@[simp] theorem State.writeResultFlag_st (x : Reg) (b : Byte) (f : Bool) : (s.writeResultFlag x b f).st = s.st := rfl
@[simp] theorem State.writeResultFlag_mem (x : Reg) (b : Byte) (f : Bool) : (s.writeResultFlag x b f).mem = s.mem := rfl
@[simp] theorem State.writeResultFlag_back (x : Reg) (b : Byte) (f : Bool) : (s.writeResultFlag x b f).back = s.back := rfl
@[simp] theorem State.writeResultFlag_front (x : Reg) (b : Byte) (f : Bool) : (s.writeResultFlag x b f).front = s.front := rfl
@[simp] theorem State.writeResultFlag_dirty (x : Reg) (b : Byte) (f : Bool) : (s.writeResultFlag x b f).dirty = s.dirty := rfl
@[simp] theorem State.writeResultFlag_lastPress (x : Reg) (b : Byte) (f : Bool) : (s.writeResultFlag x b f).lastPress = s.lastPress := rfl
@[simp] theorem State.writeResultFlag_status (x : Reg) (b : Byte) (f : Bool) : (s.writeResultFlag x b f).status = s.status := rfl
@[simp] theorem State.writeResultFlag_cfg (x : Reg) (b : Byte) (f : Bool) : (s.writeResultFlag x b f).cfg = s.cfg := rfl
@[simp] theorem State.writeResultFlag_env (x : Reg) (b : Byte) (f : Bool) : (s.writeResultFlag x b f).env = s.env := rfl
@[simp] theorem State.writeResultFlag_readByte (x : Reg) (b : Byte) (f : Bool) (k : Nat) : (s.writeResultFlag x b f).readByte k = s.readByte k := rfl

/-! `drawBack` -/
@[simp] theorem State.drawBack_v (x0 y0 : Nat) (rows : List Byte) : (s.drawBack x0 y0 rows).v = s.v := rfl
@[simp] theorem State.drawBack_i (x0 y0 : Nat) (rows : List Byte) : (s.drawBack x0 y0 rows).i = s.i := rfl
@[simp] theorem State.drawBack_pc (x0 y0 : Nat) (rows : List Byte) : (s.drawBack x0 y0 rows).pc = s.pc := rfl
@[simp] theorem State.drawBack_stack (x0 y0 : Nat) (rows : List Byte) : (s.drawBack x0 y0 rows).stack = s.stack := rfl
@[simp] theorem State.drawBack_sp (x0 y0 : Nat) (rows : List Byte) : (s.drawBack x0 y0 rows).sp = s.sp := rfl
@[simp] theorem State.drawBack_dt (x0 y0 : Nat) (rows : List Byte) : (s.drawBack x0 y0 rows).dt = s.dt := rfl
@[simp] theorem State.drawBack_st (x0 y0 : Nat) (rows : List Byte) : (s.drawBack x0 y0 rows).st = s.st := rfl
@[simp] theorem State.drawBack_mem (x0 y0 : Nat) (rows : List Byte) : (s.drawBack x0 y0 rows).mem = s.mem := rfl
@[simp] theorem State.drawBack_back (x0 y0 : Nat) (rows : List Byte) : (s.drawBack x0 y0 rows).back = (drawSprite s.back x0 y0 rows).plane := rfl
@[simp] theorem State.drawBack_front (x0 y0 : Nat) (rows : List Byte) : (s.drawBack x0 y0 rows).front = s.front := rfl
@[simp] theorem State.drawBack_dirty (x0 y0 : Nat) (rows : List Byte) : (s.drawBack x0 y0 rows).dirty = true := rfl
@[simp] theorem State.drawBack_lastPress (x0 y0 : Nat) (rows : List Byte) : (s.drawBack x0 y0 rows).lastPress = s.lastPress := rfl
@[simp] theorem State.drawBack_status (x0 y0 : Nat) (rows : List Byte) : (s.drawBack x0 y0 rows).status = s.status := rfl
@[simp] theorem State.drawBack_cfg (x0 y0 : Nat) (rows : List Byte) : (s.drawBack x0 y0 rows).cfg = s.cfg := rfl
@[simp] theorem State.drawBack_env (x0 y0 : Nat) (rows : List Byte) : (s.drawBack x0 y0 rows).env = s.env := rfl
@[simp] theorem State.drawBack_readByte (x0 y0 : Nat) (rows : List Byte) (k : Nat) : (s.drawBack x0 y0 rows).readByte k = s.readByte k := rfl
@[simp] theorem State.drawBack_readV (x0 y0 : Nat) (rows : List Byte) (r : Reg) : (s.drawBack x0 y0 rows).readV r = s.readV r := rfl

/-! `clearBack` -/
@[simp] theorem State.clearBack_v : (s.clearBack).v = s.v := rfl
@[simp] theorem State.clearBack_i : (s.clearBack).i = s.i := rfl
@[simp] theorem State.clearBack_pc : (s.clearBack).pc = s.pc := rfl
@[simp] theorem State.clearBack_stack : (s.clearBack).stack = s.stack := rfl
@[simp] theorem State.clearBack_sp : (s.clearBack).sp = s.sp := rfl
@[simp] theorem State.clearBack_dt : (s.clearBack).dt = s.dt := rfl
@[simp] theorem State.clearBack_st : (s.clearBack).st = s.st := rfl
@[simp] theorem State.clearBack_mem : (s.clearBack).mem = s.mem := rfl
@[simp] theorem State.clearBack_back : (s.clearBack).back = Plane.blank := rfl
@[simp] theorem State.clearBack_front : (s.clearBack).front = s.front := rfl
@[simp] theorem State.clearBack_dirty : (s.clearBack).dirty = true := rfl
@[simp] theorem State.clearBack_lastPress : (s.clearBack).lastPress = s.lastPress := rfl
@[simp] theorem State.clearBack_status : (s.clearBack).status = s.status := rfl
@[simp] theorem State.clearBack_cfg : (s.clearBack).cfg = s.cfg := rfl
@[simp] theorem State.clearBack_env : (s.clearBack).env = s.env := rfl
@[simp] theorem State.clearBack_readByte (k : Nat) : (s.clearBack).readByte k = s.readByte k := rfl
@[simp] theorem State.clearBack_readV (r : Reg) : (s.clearBack).readV r = s.readV r := rfl

/-! `present_snd` -/
@[simp] theorem State.present_snd_v : (s.present.2).v = s.v := rfl
@[simp] theorem State.present_snd_i : (s.present.2).i = s.i := rfl
@[simp] theorem State.present_snd_pc : (s.present.2).pc = s.pc := rfl
@[simp] theorem State.present_snd_stack : (s.present.2).stack = s.stack := rfl
@[simp] theorem State.present_snd_sp : (s.present.2).sp = s.sp := rfl
@[simp] theorem State.present_snd_dt : (s.present.2).dt = s.dt := rfl
@[simp] theorem State.present_snd_st : (s.present.2).st = s.st := rfl
@[simp] theorem State.present_snd_mem : (s.present.2).mem = s.mem := rfl
@[simp] theorem State.present_snd_back : (s.present.2).back = s.back := rfl
@[simp] theorem State.present_snd_front : (s.present.2).front = s.back := rfl
@[simp] theorem State.present_snd_dirty : (s.present.2).dirty = false := rfl
@[simp] theorem State.present_snd_lastPress : (s.present.2).lastPress = s.lastPress := rfl
@[simp] theorem State.present_snd_status : (s.present.2).status = s.status := rfl
@[simp] theorem State.present_snd_cfg : (s.present.2).cfg = s.cfg := rfl
@[simp] theorem State.present_snd_env : (s.present.2).env = s.env := rfl
@[simp] theorem State.present_snd_readByte (k : Nat) : (s.present.2).readByte k = s.readByte k := rfl
@[simp] theorem State.present_snd_readV (r : Reg) : (s.present.2).readV r = s.readV r := rfl

/-! `tickTimers` -/
@[simp] theorem State.tickTimers_v : (s.tickTimers).v = s.v := rfl
@[simp] theorem State.tickTimers_i : (s.tickTimers).i = s.i := rfl
@[simp] theorem State.tickTimers_pc : (s.tickTimers).pc = s.pc := rfl
@[simp] theorem State.tickTimers_stack : (s.tickTimers).stack = s.stack := rfl
@[simp] theorem State.tickTimers_sp : (s.tickTimers).sp = s.sp := rfl
@[simp] theorem State.tickTimers_dt : (s.tickTimers).dt = countDown s.dt := rfl
@[simp] theorem State.tickTimers_st : (s.tickTimers).st = countDown s.st := rfl
@[simp] theorem State.tickTimers_mem : (s.tickTimers).mem = s.mem := rfl
@[simp] theorem State.tickTimers_back : (s.tickTimers).back = s.back := rfl
@[simp] theorem State.tickTimers_front : (s.tickTimers).front = s.front := rfl
@[simp] theorem State.tickTimers_dirty : (s.tickTimers).dirty = s.dirty := rfl
@[simp] theorem State.tickTimers_lastPress : (s.tickTimers).lastPress = s.lastPress := rfl
@[simp] theorem State.tickTimers_status : (s.tickTimers).status = s.status := rfl
@[simp] theorem State.tickTimers_cfg : (s.tickTimers).cfg = s.cfg := rfl
@[simp] theorem State.tickTimers_env : (s.tickTimers).env = s.env := rfl
@[simp] theorem State.tickTimers_readByte (k : Nat) : (s.tickTimers).readByte k = s.readByte k := rfl
@[simp] theorem State.tickTimers_readV (r : Reg) : (s.tickTimers).readV r = s.readV r := rfl

/-! `setSchedule` -/
@[simp] theorem State.setSchedule_v (turns : List Turn) : (s.setSchedule turns).v = s.v := rfl
@[simp] theorem State.setSchedule_i (turns : List Turn) : (s.setSchedule turns).i = s.i := rfl
@[simp] theorem State.setSchedule_pc (turns : List Turn) : (s.setSchedule turns).pc = s.pc := rfl
@[simp] theorem State.setSchedule_stack (turns : List Turn) : (s.setSchedule turns).stack = s.stack := rfl
@[simp] theorem State.setSchedule_sp (turns : List Turn) : (s.setSchedule turns).sp = s.sp := rfl
@[simp] theorem State.setSchedule_dt (turns : List Turn) : (s.setSchedule turns).dt = s.dt := rfl
@[simp] theorem State.setSchedule_st (turns : List Turn) : (s.setSchedule turns).st = s.st := rfl
@[simp] theorem State.setSchedule_mem (turns : List Turn) : (s.setSchedule turns).mem = s.mem := rfl
@[simp] theorem State.setSchedule_back (turns : List Turn) : (s.setSchedule turns).back = s.back := rfl
@[simp] theorem State.setSchedule_front (turns : List Turn) : (s.setSchedule turns).front = s.front := rfl
@[simp] theorem State.setSchedule_dirty (turns : List Turn) : (s.setSchedule turns).dirty = s.dirty := rfl
@[simp] theorem State.setSchedule_lastPress (turns : List Turn) : (s.setSchedule turns).lastPress = s.lastPress := rfl
@[simp] theorem State.setSchedule_status (turns : List Turn) : (s.setSchedule turns).status = s.status := rfl
@[simp] theorem State.setSchedule_cfg (turns : List Turn) : (s.setSchedule turns).cfg = s.cfg := rfl
@[simp] theorem State.setSchedule_env (turns : List Turn) : (s.setSchedule turns).env = { s.env with schedule := turns } := rfl
@[simp] theorem State.setSchedule_readByte (turns : List Turn) (k : Nat) : (s.setSchedule turns).readByte k = s.readByte k := rfl
@[simp] theorem State.setSchedule_readV (turns : List Turn) (r : Reg) : (s.setSchedule turns).readV r = s.readV r := rfl

/-! `withInputs` -/
@[simp] theorem State.withInputs_v (now : Nat) (draw : Byte) : (s.withInputs now draw).v = s.v := rfl
@[simp] theorem State.withInputs_i (now : Nat) (draw : Byte) : (s.withInputs now draw).i = s.i := rfl
@[simp] theorem State.withInputs_pc (now : Nat) (draw : Byte) : (s.withInputs now draw).pc = s.pc := rfl
@[simp] theorem State.withInputs_stack (now : Nat) (draw : Byte) : (s.withInputs now draw).stack = s.stack := rfl
@[simp] theorem State.withInputs_sp (now : Nat) (draw : Byte) : (s.withInputs now draw).sp = s.sp := rfl
@[simp] theorem State.withInputs_dt (now : Nat) (draw : Byte) : (s.withInputs now draw).dt = s.dt := rfl
@[simp] theorem State.withInputs_st (now : Nat) (draw : Byte) : (s.withInputs now draw).st = s.st := rfl
@[simp] theorem State.withInputs_mem (now : Nat) (draw : Byte) : (s.withInputs now draw).mem = s.mem := rfl
@[simp] theorem State.withInputs_back (now : Nat) (draw : Byte) : (s.withInputs now draw).back = s.back := rfl
@[simp] theorem State.withInputs_front (now : Nat) (draw : Byte) : (s.withInputs now draw).front = s.front := rfl
@[simp] theorem State.withInputs_dirty (now : Nat) (draw : Byte) : (s.withInputs now draw).dirty = s.dirty := rfl
@[simp] theorem State.withInputs_lastPress (now : Nat) (draw : Byte) : (s.withInputs now draw).lastPress = s.lastPress := rfl
@[simp] theorem State.withInputs_status (now : Nat) (draw : Byte) : (s.withInputs now draw).status = s.status := rfl
@[simp] theorem State.withInputs_cfg (now : Nat) (draw : Byte) : (s.withInputs now draw).cfg = s.cfg := rfl
@[simp] theorem State.withInputs_env (now : Nat) (draw : Byte) : (s.withInputs now draw).env = { s.env with now := now, draw := draw } := rfl
@[simp] theorem State.withInputs_readByte (now : Nat) (draw : Byte) (k : Nat) : (s.withInputs now draw).readByte k = s.readByte k := rfl
@[simp] theorem State.withInputs_readV (now : Nat) (draw : Byte) (r : Reg) : (s.withInputs now draw).readV r = s.readV r := rfl

/-! `withFreeInputs` -/
@[simp] theorem State.withFreeInputs_v : (s.withFreeInputs).v = s.v := rfl
@[simp] theorem State.withFreeInputs_i : (s.withFreeInputs).i = s.i := rfl
@[simp] theorem State.withFreeInputs_pc : (s.withFreeInputs).pc = s.pc := rfl
@[simp] theorem State.withFreeInputs_stack : (s.withFreeInputs).stack = s.stack := rfl
@[simp] theorem State.withFreeInputs_sp : (s.withFreeInputs).sp = s.sp := rfl
@[simp] theorem State.withFreeInputs_dt : (s.withFreeInputs).dt = s.dt := rfl
@[simp] theorem State.withFreeInputs_st : (s.withFreeInputs).st = s.st := rfl
@[simp] theorem State.withFreeInputs_mem : (s.withFreeInputs).mem = s.mem := rfl
@[simp] theorem State.withFreeInputs_back : (s.withFreeInputs).back = s.back := rfl
@[simp] theorem State.withFreeInputs_front : (s.withFreeInputs).front = s.front := rfl
@[simp] theorem State.withFreeInputs_dirty : (s.withFreeInputs).dirty = s.dirty := rfl
@[simp] theorem State.withFreeInputs_lastPress : (s.withFreeInputs).lastPress = s.lastPress := rfl
@[simp] theorem State.withFreeInputs_status : (s.withFreeInputs).status = s.status := rfl
@[simp] theorem State.withFreeInputs_cfg : (s.withFreeInputs).cfg = s.cfg := rfl
@[simp] theorem State.withFreeInputs_readByte (k : Nat) : (s.withFreeInputs).readByte k = s.readByte k := rfl
@[simp] theorem State.withFreeInputs_readV (r : Reg) : (s.withFreeInputs).readV r = s.readV r := rfl

/-! `recordPress` -/
@[simp] theorem State.recordPress_v (k t : Nat) : (s.recordPress k t).v = s.v := by unfold State.recordPress; split <;> rfl
@[simp] theorem State.recordPress_i (k t : Nat) : (s.recordPress k t).i = s.i := by unfold State.recordPress; split <;> rfl
@[simp] theorem State.recordPress_pc (k t : Nat) : (s.recordPress k t).pc = s.pc := by unfold State.recordPress; split <;> rfl
@[simp] theorem State.recordPress_stack (k t : Nat) : (s.recordPress k t).stack = s.stack := by unfold State.recordPress; split <;> rfl
@[simp] theorem State.recordPress_sp (k t : Nat) : (s.recordPress k t).sp = s.sp := by unfold State.recordPress; split <;> rfl
@[simp] theorem State.recordPress_dt (k t : Nat) : (s.recordPress k t).dt = s.dt := by unfold State.recordPress; split <;> rfl
@[simp] theorem State.recordPress_st (k t : Nat) : (s.recordPress k t).st = s.st := by unfold State.recordPress; split <;> rfl
@[simp] theorem State.recordPress_mem (k t : Nat) : (s.recordPress k t).mem = s.mem := by unfold State.recordPress; split <;> rfl
@[simp] theorem State.recordPress_back (k t : Nat) : (s.recordPress k t).back = s.back := by unfold State.recordPress; split <;> rfl
@[simp] theorem State.recordPress_front (k t : Nat) : (s.recordPress k t).front = s.front := by unfold State.recordPress; split <;> rfl
@[simp] theorem State.recordPress_dirty (k t : Nat) : (s.recordPress k t).dirty = s.dirty := by unfold State.recordPress; split <;> rfl
@[simp] theorem State.recordPress_status (k t : Nat) : (s.recordPress k t).status = s.status := by unfold State.recordPress; split <;> rfl
@[simp] theorem State.recordPress_cfg (k t : Nat) : (s.recordPress k t).cfg = s.cfg := by unfold State.recordPress; split <;> rfl
@[simp] theorem State.recordPress_env (k t : Nat) : (s.recordPress k t).env = s.env := by unfold State.recordPress; split <;> rfl
@[simp] theorem State.recordPress_readByte (k t a : Nat) : (s.recordPress k t).readByte a = s.readByte a := by simp [State.readByte]
@[simp] theorem State.recordPress_readV (k t : Nat) (r : Reg) : (s.recordPress k t).readV r = s.readV r := by simp [State.readV]

/-! `writeBytes` -/
@[simp] theorem State.writeBytes_v (a : Nat) (bs : List Byte) : (s.writeBytes a bs).v = s.v := by
  induction bs generalizing s a with
  | nil => rfl
  | cons b rest ih => simp [State.writeBytes, ih]
@[simp] theorem State.writeBytes_i (a : Nat) (bs : List Byte) : (s.writeBytes a bs).i = s.i := by
  induction bs generalizing s a with
  | nil => rfl
  | cons b rest ih => simp [State.writeBytes, ih]
@[simp] theorem State.writeBytes_pc (a : Nat) (bs : List Byte) : (s.writeBytes a bs).pc = s.pc := by
  induction bs generalizing s a with
  | nil => rfl
  | cons b rest ih => simp [State.writeBytes, ih]
@[simp] theorem State.writeBytes_stack (a : Nat) (bs : List Byte) : (s.writeBytes a bs).stack = s.stack := by
  induction bs generalizing s a with
  | nil => rfl
  | cons b rest ih => simp [State.writeBytes, ih]
@[simp] theorem State.writeBytes_sp (a : Nat) (bs : List Byte) : (s.writeBytes a bs).sp = s.sp := by
  induction bs generalizing s a with
  | nil => rfl
  | cons b rest ih => simp [State.writeBytes, ih]
@[simp] theorem State.writeBytes_dt (a : Nat) (bs : List Byte) : (s.writeBytes a bs).dt = s.dt := by
  induction bs generalizing s a with
  | nil => rfl
  | cons b rest ih => simp [State.writeBytes, ih]
@[simp] theorem State.writeBytes_st (a : Nat) (bs : List Byte) : (s.writeBytes a bs).st = s.st := by
  induction bs generalizing s a with
  | nil => rfl
  | cons b rest ih => simp [State.writeBytes, ih]
@[simp] theorem State.writeBytes_back (a : Nat) (bs : List Byte) : (s.writeBytes a bs).back = s.back := by
  induction bs generalizing s a with
  | nil => rfl
  | cons b rest ih => simp [State.writeBytes, ih]
@[simp] theorem State.writeBytes_front (a : Nat) (bs : List Byte) : (s.writeBytes a bs).front = s.front := by
  induction bs generalizing s a with
  | nil => rfl
  | cons b rest ih => simp [State.writeBytes, ih]
@[simp] theorem State.writeBytes_dirty (a : Nat) (bs : List Byte) : (s.writeBytes a bs).dirty = s.dirty := by
  induction bs generalizing s a with
  | nil => rfl
  | cons b rest ih => simp [State.writeBytes, ih]
@[simp] theorem State.writeBytes_lastPress (a : Nat) (bs : List Byte) : (s.writeBytes a bs).lastPress = s.lastPress := by
  induction bs generalizing s a with
  | nil => rfl
  | cons b rest ih => simp [State.writeBytes, ih]
@[simp] theorem State.writeBytes_status (a : Nat) (bs : List Byte) : (s.writeBytes a bs).status = s.status := by
  induction bs generalizing s a with
  | nil => rfl
  | cons b rest ih => simp [State.writeBytes, ih]
@[simp] theorem State.writeBytes_cfg (a : Nat) (bs : List Byte) : (s.writeBytes a bs).cfg = s.cfg := by
  induction bs generalizing s a with
  | nil => rfl
  | cons b rest ih => simp [State.writeBytes, ih]
@[simp] theorem State.writeBytes_env (a : Nat) (bs : List Byte) : (s.writeBytes a bs).env = s.env := by
  induction bs generalizing s a with
  | nil => rfl
  | cons b rest ih => simp [State.writeBytes, ih]
@[simp] theorem State.writeBytes_readV (a : Nat) (bs : List Byte) (r : Reg) : (s.writeBytes a bs).readV r = s.readV r := by simp [State.readV]

end Sys2Proof.Machine
end

