-- ==== Sys2Proof/Laws/Memory.lean ====
section
/-! SUPPORT. The laws of memory: a read after a write, the canonical form is kept, runs of bytes, and the access
checks. -/

namespace Sys2Proof.Machine

/-! ### One byte -/

theorem Memory.lookup_insert (m : List Host.Cell) (a k : Nat) (b : Byte) :
    Memory.lookup (Memory.insert a b m) k = if k = a then some b else Memory.lookup m k := by
  induction m with
  | nil => simp [Memory.insert, Memory.lookup]
  | cons cell rest ih => grind [Memory.insert, Memory.lookup]

theorem Memory.lookup_filter_ne (m : List Host.Cell) (a k : Nat) :
    Memory.lookup (m.filter (fun cell => cell.1 != a)) k = if k = a then none else Memory.lookup m k := by
  induction m with
  | nil => simp [Memory.lookup]
  | cons cell rest ih => grind [Memory.lookup]

/-- A read after a write: the byte written at its address, the old byte elsewhere. -/
theorem Memory.read_write (c : Config) (m : List Host.Cell) (a k : Nat) (b : Byte) :
    Memory.read c (Memory.write c m a b) k = if k = a then b else Memory.read c m k := by
  unfold Memory.read Memory.write
  split
  · rw [Memory.lookup_filter_ne]
    split <;> simp_all
  · rw [Memory.lookup_insert]
    split <;> simp

theorem Memory.mem_insert {m : List Host.Cell} {a : Nat} {b : Byte} {cell : Host.Cell}
    (h : cell ∈ Memory.insert a b m) : cell = (a, b) ∨ cell ∈ m := by
  induction m with
  | nil => simpa [Memory.insert] using h
  | cons d rest ih => grind [Memory.insert]

theorem Memory.insert_rising {m : List Host.Cell} (a : Nat) (b : Byte)
    (h : m.Pairwise (fun p q => p.1 < q.1)) : (Memory.insert a b m).Pairwise (fun p q => p.1 < q.1) := by
  induction m with
  | nil => simp [Memory.insert]
  | cons d rest ih =>
    obtain ⟨k, e⟩ := d
    obtain ⟨hd, hr⟩ := List.pairwise_cons.1 h
    unfold Memory.insert
    split
    · refine List.pairwise_cons.2 ⟨fun q hq => ?_, h⟩
      obtain rfl | hq := List.mem_cons.1 hq
      · assumption
      · exact Nat.lt_trans ‹a < k› (hd q hq)
    · split
      · subst_vars
        exact List.pairwise_cons.2 ⟨hd, hr⟩
      · refine List.pairwise_cons.2 ⟨fun q hq => ?_, ih hr⟩
        obtain rfl | hq := Memory.mem_insert hq
        · show k < a
          omega
        · exact hd q hq

/-- A write inside memory keeps the canonical form. -/
theorem Memory.wf_write {c : Config} {m : List Host.Cell} {a : Nat} (b : Byte) (ha : a < memSize)
    (h : Memory.wf c m) : Memory.wf c (Memory.write c m a b) := by
  unfold Memory.write
  split
  · exact ⟨h.1.filter _, fun cell hc => h.2 cell (List.mem_of_mem_filter hc)⟩
  · refine ⟨Memory.insert_rising a b h.1, fun cell hc => ?_⟩
    obtain rfl | hc := Memory.mem_insert hc
    · exact ⟨ha, ‹_›⟩
    · exact h.2 cell hc

theorem Memory.wf_nil (c : Config) : Memory.wf c [] := ⟨List.Pairwise.nil, by simp⟩

theorem Memory.read_nil (c : Config) (a : Nat) : Memory.read c [] a = Memory.unlisted c a := rfl

theorem State.readByte_writeByte (s : State) (a k : Nat) (b : Byte) :
    (s.writeByte a b).readByte k = if k = a then b else s.readByte k :=
  Memory.read_write s.cfg s.mem a k b

/-! ### Runs of bytes -/

/-- Every byte after a run is written: the run's own byte inside it, the old byte outside. -/
theorem State.readByte_writeBytes (s : State) (a k : Nat) (bs : List Byte) :
    (s.writeBytes a bs).readByte k =
      if h : a ≤ k ∧ k - a < bs.length then bs[k - a]'h.2 else s.readByte k := by
  induction bs generalizing s a with
  | nil => simp [State.writeBytes]
  | cons b rest ih =>
    rw [State.writeBytes, ih, State.readByte_writeByte]
    by_cases h1 : k = a
    · subst h1
      simp
    · by_cases h2 : a + 1 ≤ k ∧ k - (a + 1) < rest.length
      · have h3 : a ≤ k ∧ k - a < (b :: rest).length := ⟨by omega, by simp only [List.length_cons]; omega⟩
        have e : k - a = (k - (a + 1)) + 1 := by omega
        simp [h2, h3, e]
      · have h3 : ¬(a ≤ k ∧ k - a < (b :: rest).length) := by
          simp only [List.length_cons]
          omega
        simp only [h2, h3, h1, dif_neg, if_neg, not_false_eq_true]

theorem State.wf_writeBytes (s : State) (a : Nat) (bs : List Byte) (hb : a + bs.length ≤ memSize)
    (h : Memory.wf s.cfg s.mem) : Memory.wf s.cfg (s.writeBytes a bs).mem := by
  induction bs generalizing s a with
  | nil => exact h
  | cons b rest ih =>
    simp only [List.length_cons] at hb
    exact ih (s.writeByte a b) (a + 1) (by omega) (Memory.wf_write b (by omega) h)

@[simp] theorem State.length_readBytes (s : State) (a n : Nat) : (s.readBytes a n).length = n := by
  induction n generalizing a with
  | zero => rfl
  | succ n ih => simp [State.readBytes, ih]

theorem State.getElem?_readBytes (s : State) (a n k : Nat) :
    (s.readBytes a n)[k]? = if k < n then some (s.readByte (a + k)) else none := by
  induction n generalizing a k with
  | zero => simp [State.readBytes]
  | succ n ih =>
    cases k with
    | zero => simp [State.readBytes]
    | succ k =>
      simp only [State.readBytes, List.getElem?_cons_succ, ih]
      have e : a + 1 + k = a + (k + 1) := by omega
      simp [e]

/-! ### The access checks -/

/-- No address of the run fails. -/
theorem firstFailing_eq_none (bad : Nat → Bool) (a n : Nat) :
    firstFailing bad a n = none ↔ ∀ k, a ≤ k → k < a + n → bad k = false := by
  induction n generalizing a with
  | zero => simp [firstFailing]; omega
  | succ n ih =>
    unfold firstFailing
    by_cases hb : bad a = true
    · simp only [hb, if_true, reduceCtorEq, false_iff]
      intro h
      have := h a (Nat.le_refl a) (by omega)
      simp [hb] at this
    · simp only [hb, if_false, Bool.false_eq_true, ih]
      constructor
      · intro h k h1 h2
        by_cases e : k = a
        · subst e; simpa using hb
        · exact h k (by omega) (by omega)
      · intro h k h1 h2
        exact h k (by omega) (by omega)

/-- The first address of the run that fails, and the ones below it do not. -/
theorem firstFailing_eq_some {bad : Nat → Bool} {a n k : Nat} :
    firstFailing bad a n = some k ↔ a ≤ k ∧ k < a + n ∧ bad k = true ∧ ∀ j, a ≤ j → j < k → bad j = false := by
  induction n generalizing a with
  | zero => simp [firstFailing]; omega
  | succ n ih =>
    unfold firstFailing
    by_cases hb : bad a = true
    · simp only [hb, if_true, Option.some.injEq]
      constructor
      · rintro rfl
        exact ⟨Nat.le_refl _, by omega, hb, fun j h1 h2 => absurd h1 (by omega)⟩
      · rintro ⟨h1, h2, h3, h4⟩
        by_contra hne
        have := h4 a (Nat.le_refl a) (by omega)
        simp [hb] at this
    · simp only [hb, if_false, Bool.false_eq_true, ih]
      constructor
      · rintro ⟨h1, h2, h3, h4⟩
        refine ⟨by omega, by omega, h3, fun j hj1 hj2 => ?_⟩
        by_cases e : j = a
        · subst e; simpa using hb
        · exact h4 j (by omega) hj2
      · rintro ⟨h1, h2, h3, h4⟩
        have hne : k ≠ a := by
          rintro rfl
          exact hb h3
        exact ⟨by omega, by omega, h3, fun j hj1 hj2 => h4 j (by omega) hj2⟩

/-- A read of `n` bytes passes exactly when it ends inside memory. -/
theorem checkRead_eq_none {a n : Nat} (hn : 0 < n) : checkRead a n = none ↔ a + n ≤ memSize := by
  unfold checkRead
  simp only [Option.map_eq_none_iff, firstFailing_eq_none, decide_eq_false_iff_not, Nat.not_le]
  exact ⟨fun h => by have := h (a + n - 1) (by omega) (by omega); omega, fun h k _ _ => by omega⟩

/-- A read that does not pass fails at its first address outside memory. -/
theorem checkRead_eq_some {a n : Nat} (h : memSize < a + n) (hn : 0 < n) :
    checkRead a n = some (.outOfRange (max a memSize)) := by
  unfold checkRead
  rw [(firstFailing_eq_some (k := max a memSize)).2]
  · rfl
  · exact ⟨by omega, by omega, by simp, fun j _ hj => by simp; omega⟩

/-- A write of `n` bytes passes exactly when it ends inside memory and, with the policy `fault`, starts above the
reserved region. -/
theorem checkWrite_eq_none {c : Config} {a n : Nat} (hn : 0 < n) :
    checkWrite c a n = none ↔ a + n ≤ memSize ∧ (c.reservedWrite = .fault → programStart ≤ a) := by
  unfold checkWrite
  cases h : firstFailing (fun k => decide (memSize ≤ k)) a n with
  | some k =>
    obtain ⟨h1, h2, h3, _⟩ := firstFailing_eq_some.1 h
    simp only [decide_eq_true_eq] at h3
    simp only [reduceCtorEq, false_iff]
    rintro ⟨h4, _⟩
    omega
  | none =>
    have h1 : a + n ≤ memSize := by
      have := (firstFailing_eq_none _ a n).1 h (a + n - 1) (by omega) (by omega)
      simp only [decide_eq_false_iff_not] at this
      omega
    cases hc : c.reservedWrite with
    | permit => simp [h1]
    | fault =>
      simp only [Option.map_eq_none_iff, firstFailing_eq_none, decide_eq_false_iff_not, Nat.not_lt, h1, true_and,
        forall_const]
      exact ⟨fun h => h a (Nat.le_refl a) (by omega), fun h k hk _ => by omega⟩

/-- A write that runs past memory fails at its first address outside memory. -/
theorem checkWrite_outOfRange {c : Config} {a n : Nat} (h : memSize < a + n) (hn : 0 < n) :
    checkWrite c a n = some (.outOfRange (max a memSize)) := by
  unfold checkWrite
  rw [(firstFailing_eq_some (k := max a memSize)).2]
  exact ⟨by omega, by omega, by simp, fun j _ hj => by simp; omega⟩

/-- A write that starts in the reserved region under the policy `fault` fails at its first address. -/
theorem checkWrite_reserved {c : Config} {a n : Nat} (hc : c.reservedWrite = .fault) (ha : a < programStart)
    (h : a + n ≤ memSize) (hn : 0 < n) : checkWrite c a n = some (.reserved a) := by
  unfold checkWrite
  have h1 : firstFailing (fun k => decide (memSize ≤ k)) a n = none :=
    (firstFailing_eq_none _ a n).2 fun k _ hk => by simp; omega
  rw [h1, hc]
  simp only
  rw [(firstFailing_eq_some (k := a)).2]
  · rfl
  · exact ⟨Nat.le_refl a, by omega, by simpa using ha, fun j h1 h2 => absurd h1 (by omega)⟩

end Sys2Proof.Machine
end

