-- ==== Sys2Proof/Laws/Registers.lean ====
section
/-! SUPPORT. The laws of the general registers, the flag and the stack. -/

namespace Sys2Proof.Machine

@[simp] theorem State.readV_writeV (s : State) (x r : Reg) (b : Byte) :
    (s.writeV x b).readV r = if r = x then b else s.readV r := by
  have e : x.val = r.val ↔ r = x := by rw [Fin.ext_iff]; exact eq_comm
  simp only [State.readV, State.writeV, Fin.getElem_fin, Vector.getElem_set, e]

@[simp] theorem State.readV_writeFlag (s : State) (r : Reg) (f : Bool) :
    (s.writeFlag f).readV r = if r = VF then flagByte f else s.readV r := by
  simp [State.writeFlag]

/-- The flag is written after the result (41_register_alu.md R162). -/
@[simp] theorem State.readV_writeResultFlag (s : State) (x r : Reg) (b : Byte) (f : Bool) :
    (s.writeResultFlag x b f).readV r = if r = VF then flagByte f else if r = x then b else s.readV r := by
  simp [State.writeResultFlag]

@[simp] theorem State.readV_loadBlock (s : State) (a : Nat) (x r : Reg) :
    (s.loadBlock a x).readV r = if r ≤ x then s.readByte (a + r.val) else s.readV r := by
  simp [State.readV, State.loadBlock]

theorem State.length_blockRegs (s : State) (x : Reg) : (s.blockRegs x).length = x.val + 1 := by
  simp [State.blockRegs]

theorem State.getElem_blockRegs (s : State) (x : Reg) (k : Nat) (h : k < (s.blockRegs x).length) :
    (s.blockRegs x)[k] = s.readV ⟨k, by rw [State.length_blockRegs] at h; omega⟩ := by
  simp [State.blockRegs, State.readV]

theorem flagByte_toNat (f : Bool) : (flagByte f).toNat = if f then 1 else 0 := by
  cases f <;> rfl

/-- The entry pushed is the one on top. -/
theorem State.top_push (s : State) (a : Word) (room : s.sp.val < 16) (live : 0 < (s.push a room).sp.val) :
    (s.push a room).top live = a := by
  simp [State.top, State.push]

/-- A dropped entry's place and the count return to what they were before the push. -/
theorem State.drop_push_sp (s : State) (a : Word) (room : s.sp.val < 16) : (s.push a room).drop.sp = s.sp := by
  simp [State.drop, State.push]

end Sys2Proof.Machine
end

