-- ==== Sys2Proof/Laws/Display.lean ====
section
/-! SUPPORT. The laws of the planes: a pixel after one is written, and every pixel and the collision bit after a sprite
is drawn (43_display.md R233, R235). -/

namespace Sys2Proof.Machine

/-! ### One pixel -/

theorem Plane.pixel_mod (p : Plane) (x y : Nat) : p.pixel (x % 64) (y % 32) = p.pixel x y := by
  simp [Plane.pixel]

@[simp] theorem Plane.pixel_blank (x y : Nat) : Plane.blank.pixel x y = false := by
  simp [Plane.pixel, Plane.blank]

/-- A pixel after one is written: the new bit at its coordinates, the old pixel elsewhere. -/
theorem Plane.pixel_setPixel (p : Plane) (x y u w : Nat) (b : Bool) :
    (p.setPixel x y b).pixel u w = if u % 64 = x % 64 ∧ w % 32 = y % 32 then b else p.pixel u w := by
  have hx : x % 64 < 64 := Nat.mod_lt _ (by decide)
  have hu : u % 64 < 64 := Nat.mod_lt _ (by decide)
  unfold Plane.pixel Plane.setPixel
  simp only [Vector.getElem_set]
  by_cases hy : y % 32 = w % 32
  · by_cases hb : u % 64 = x % 64
    · cases b <;> simp [hy, hb, hx]
    · have far : u % 64 < x % 64 ∨ u % 64 - x % 64 ≠ 0 := by omega
      cases b <;> rcases far with h | h <;> simp [hy, hb, hu, h]
  · simp [hy, Ne.symm hy]

/-- Two planes with the same pixels are the same plane. -/
theorem Plane.ext_pixel {p q : Plane} (h : ∀ x y, x < 64 → y < 32 → p.pixel x y = q.pixel x y) : p = q := by
  apply Vector.ext
  intro y hy
  apply BitVec.eq_of_getLsbD_eq
  intro x hx
  have := h x y hx hy
  simpa [Plane.pixel, Nat.mod_eq_of_lt hx, Nat.mod_eq_of_lt hy] using this

/-! ### A run of columns -/

/-- How far right of the origin a column lies, with wraparound. -/
def colOffset (x0 u : Nat) : Nat := (u + 64 - x0) % 64

theorem colOffset_eq_iff {x0 u j : Nat} (hx : x0 < 64) (hu : u < 64) (hj : j < 64) :
    colOffset x0 u = j ↔ u = (x0 + j) % 64 := by
  unfold colOffset
  omega

/-- Every pixel after one is touched. -/
theorem Blit.pixel_plane (a : Blit) (px py u w : Nat) (bit : Bool) :
    (a.pixel px py bit).plane.pixel u w =
      (a.plane.pixel u w ^^ (decide (u % 64 = px % 64 ∧ w % 32 = py % 32) && bit)) := by
  unfold Blit.pixel
  rw [Plane.pixel_setPixel]
  split
  · rename_i h
    rw [← Plane.pixel_mod a.plane u w, h.1, h.2, Plane.pixel_mod]
    simp
  · rename_i h
    simp [h]

/-- Every pixel after a run of columns is drawn: its old value, flipped where the row's bit over it is set. -/
theorem Blit.columns_plane {x0 py : Nat} (row : Byte) (c left : Nat) (a : Blit) {u w : Nat} (hx : x0 < 64)
    (hy : py < 32) (hc : c + left ≤ 8) (hu : u < 64) (hw : w < 32) :
    (Blit.columns x0 py row c left a).plane.pixel u w =
      (a.plane.pixel u w ^^
        (decide (w = py ∧ c ≤ colOffset x0 u ∧ colOffset x0 u < c + left) && row.getLsbD (7 - colOffset x0 u))) := by
  induction left generalizing c a with
  | zero =>
    have h : ¬ (c ≤ colOffset x0 u ∧ colOffset x0 u < c + 0) := by omega
    simp only [Blit.columns, h, and_false, decide_false, Bool.false_and, Bool.xor_false]
  | succ left ih =>
    have e : (u % 64 = (x0 + c) % 64 % 64 ∧ w % 32 = py % 32) ↔ (w = py ∧ colOffset x0 u = c) := by
      rw [colOffset_eq_iff hx hu (by omega)]
      omega
    have e' : decide (u % 64 = (x0 + c) % 64 % 64 ∧ w % 32 = py % 32) = decide (w = py ∧ colOffset x0 u = c) :=
      decide_eq_decide.2 e
    rw [Blit.columns, ih (c + 1) _ (by omega), Blit.pixel_plane, e']
    by_cases h1 : w = py
    · by_cases h2 : colOffset x0 u = c
      · have h3 : ¬ (c + 1 ≤ colOffset x0 u) := by omega
        simp [h1, h2]
      · by_cases h4 : c + 1 ≤ colOffset x0 u ∧ colOffset x0 u < c + 1 + left
        · have h5 : c ≤ colOffset x0 u ∧ colOffset x0 u < c + (left + 1) := by omega
          simp [h1, h2, h4, h5]
        · have h5 : ¬ (c ≤ colOffset x0 u ∧ colOffset x0 u < c + (left + 1)) := by omega
          simp only [h1, h2, h4, h5, and_false, decide_false, Bool.false_and, Bool.xor_false]
    · simp [h1]

/-- A run of columns collides exactly when it touches a set pixel with a set bit. -/
theorem Blit.columns_collided {x0 py : Nat} (row : Byte) (c left : Nat) (a : Blit) (hc : c + left ≤ 8) :
    (Blit.columns x0 py row c left a).collided = true ↔
      a.collided = true ∨ ∃ j, c ≤ j ∧ j < c + left ∧ a.plane.pixel ((x0 + j) % 64) py = true ∧
        row.getLsbD (7 - j) = true := by
  induction left generalizing c a with
  | zero =>
    simp only [Blit.columns]
    exact ⟨Or.inl, fun h => h.elim id fun ⟨j, h1, h2, _⟩ => absurd h1 (by omega)⟩
  | succ left ih =>
    rw [Blit.columns, ih (c + 1) _ (by omega)]
    have far : ∀ j, c + 1 ≤ j → j < c + 1 + left →
        (a.pixel ((x0 + c) % 64) py (row.getLsbD (7 - c))).plane.pixel ((x0 + j) % 64) py =
          a.plane.pixel ((x0 + j) % 64) py := by
      intro j h1 h2
      rw [Blit.pixel_plane]
      have : ¬ ((x0 + j) % 64 = (x0 + c) % 64) := by omega
      simp [this]
    constructor
    · rintro (h | ⟨j, h1, h2, h3, h4⟩)
      · simp only [Blit.pixel, Bool.or_eq_true, Bool.and_eq_true] at h
        rcases h with h | ⟨h3, h4⟩
        · exact .inl h
        · exact .inr ⟨c, Nat.le_refl c, by omega, h3, h4⟩
      · rw [far j h1 h2] at h3
        exact .inr ⟨j, by omega, by omega, h3, h4⟩
    · rintro (h | ⟨j, h1, h2, h3, h4⟩)
      · exact .inl (by simp [Blit.pixel, h])
      · by_cases e : j = c
        · subst e
          exact .inl (by simp [Blit.pixel, h3, h4])
        · exact .inr ⟨j, by omega, by omega, by rw [far j (by omega) (by omega)]; exact h3, h4⟩

/-! ### A whole sprite -/

theorem spriteBit_nil (x0 y0 x y : Nat) : spriteBit x0 y0 [] x y = false := by
  simp [spriteBit]

/-- The bit of a sprite over a pixel is the first row's, on the origin's row, or the bit of the rows below. -/
theorem spriteBit_cons {x0 y : Nat} (row : Byte) (rest : List Byte) {u w : Nat} (hw : w < 32) :
    spriteBit x0 (y % 32) (row :: rest) u w =
      ((decide (w = y % 32 ∧ 0 ≤ colOffset x0 u ∧ colOffset x0 u < 0 + 8) && row.getLsbD (7 - colOffset x0 u)) ||
        (decide (w ≠ y % 32) && spriteBit x0 ((y + 1) % 32) rest u w)) := by
  unfold spriteBit colOffset
  by_cases h : w = y % 32
  · have : (w + 32 - y % 32) % 32 = 0 := by omega
    simp [h]
  · have e : (w + 32 - y % 32) % 32 = (w + 32 - (y + 1) % 32) % 32 + 1 := by omega
    simp [h, e]

theorem spriteBit_above {x0 y : Nat} (rest : List Byte) {u w : Nat} (hl : rest.length < 32) (h : w = y % 32) :
    spriteBit x0 ((y + 1) % 32) rest u w = false := by
  unfold spriteBit
  have : rest[(w + 32 - (y + 1) % 32) % 32]? = none := List.getElem?_eq_none (by omega)
  simp [this]

/-- Every pixel after a run of rows is drawn. -/
theorem Blit.rows_plane {x0 : Nat} (rows : List Byte) (y : Nat) (a : Blit) {u w : Nat} (hx : x0 < 64)
    (hl : rows.length ≤ 32) (hu : u < 64) (hw : w < 32) :
    (Blit.rows x0 y rows a).plane.pixel u w = (a.plane.pixel u w ^^ spriteBit x0 (y % 32) rows u w) := by
  induction rows generalizing y a with
  | nil => simp [Blit.rows, spriteBit_nil]
  | cons row rest ih =>
    have hl' : rest.length < 32 := by simpa using hl
    rw [Blit.rows, ih (y + 1) _ (Nat.le_of_lt hl'), spriteBit_cons row rest hw,
      Blit.columns_plane row 0 8 a hx (Nat.mod_lt _ (by decide)) (by decide) hu hw]
    by_cases h : w = y % 32
    · rw [spriteBit_above rest hl' h]
      simp [h]
    · simp [h]

/-- A run of rows collides exactly when it touches a set pixel with a set bit. -/
theorem Blit.rows_collided {x0 : Nat} (rows : List Byte) (y : Nat) (a : Blit) (hx : x0 < 64)
    (hl : rows.length ≤ 32) :
    (Blit.rows x0 y rows a).collided = true ↔
      a.collided = true ∨ ∃ u w, u < 64 ∧ w < 32 ∧ a.plane.pixel u w = true ∧ spriteBit x0 (y % 32) rows u w = true := by
  induction rows generalizing y a with
  | nil => simp [Blit.rows, spriteBit_nil]
  | cons row rest ih =>
    have hl' : rest.length < 32 := by simpa using hl
    have hy : y % 32 < 32 := Nat.mod_lt _ (by decide)
    rw [Blit.rows, ih (y + 1) _ (Nat.le_of_lt hl'), Blit.columns_collided row 0 8 a (by decide)]
    constructor
    · rintro ((h | ⟨j, _, h2, h3, h4⟩) | ⟨u, w, hu, hw, h3, h4⟩)
      · exact .inl h
      · refine .inr ⟨(x0 + j) % 64, y % 32, Nat.mod_lt _ (by decide), hy, h3, ?_⟩
        have e : colOffset x0 ((x0 + j) % 64) = j :=
          (colOffset_eq_iff hx (Nat.mod_lt _ (by decide)) (by omega)).2 rfl
        rw [spriteBit_cons row rest hy]
        simp [e, h4]
        omega
      · refine .inr ⟨u, w, hu, hw, ?_, ?_⟩
        · by_cases h : w = y % 32
          · rw [spriteBit_above rest hl' h] at h4
            exact absurd h4 (by decide)
          · rw [Blit.columns_plane row 0 8 a hx hy (by decide) hu hw] at h3
            simpa [h] using h3
        · rw [spriteBit_cons row rest hw]
          by_cases h : w = y % 32
          · rw [spriteBit_above rest hl' h] at h4
            exact absurd h4 (by decide)
          · simp [h, h4]
    · rintro (h | ⟨u, w, hu, hw, h3, h4⟩)
      · exact .inl (.inl h)
      · rw [spriteBit_cons row rest hw] at h4
        by_cases h : w = y % 32
        · simp only [h, ne_eq, not_true_eq_false, decide_false, Bool.false_and, Bool.or_false, Bool.and_eq_true,
            decide_eq_true_eq, true_and] at h4
          refine .inl (.inr ⟨colOffset x0 u, h4.1.1, h4.1.2, ?_, h4.2⟩)
          rw [← (colOffset_eq_iff hx hu (by omega)).1 rfl, ← h]
          exact h3
        · refine .inr ⟨u, w, hu, hw, ?_, ?_⟩
          · rw [Blit.columns_plane row 0 8 a hx hy (by decide) hu hw]
            simpa [h] using h3
          · simpa [h] using h4

/-- Every pixel after `DrawSprite` (43_display.md R233). -/
theorem drawSprite_pixel (p : Plane) {x0 y0 : Nat} (rows : List Byte) {u w : Nat} (hx : x0 < 64) (hy : y0 < 32)
    (hl : rows.length ≤ 32) (hu : u < 64) (hw : w < 32) :
    (drawSprite p x0 y0 rows).plane.pixel u w = (p.pixel u w ^^ spriteBit x0 y0 rows u w) := by
  have h := Blit.rows_plane rows y0 ⟨p, false⟩ hx hl hu hw
  rwa [Nat.mod_eq_of_lt hy] at h

/-- The collision bit of `DrawSprite` (43_display.md R235). -/
theorem drawSprite_collided (p : Plane) {x0 y0 : Nat} (rows : List Byte) (hx : x0 < 64) (hy : y0 < 32)
    (hl : rows.length ≤ 32) :
    (drawSprite p x0 y0 rows).collided = true ↔
      ∃ u w, u < 64 ∧ w < 32 ∧ p.pixel u w = true ∧ spriteBit x0 y0 rows u w = true := by
  have h := Blit.rows_collided rows y0 ⟨p, false⟩ hx hl
  rw [Nat.mod_eq_of_lt hy] at h
  simpa [drawSprite] using h

end Sys2Proof.Machine
end

