-- ==== Sys2Proof/Laws/Step.lean ====
section
/-! SUPPORT. What one step can do, said once: the cases of the Executor's step and of a turn. -/

namespace Sys2Proof.Machine

/-- A guarded effect happens whole, or the core halts with the fault's cause (20_memory.md R81). -/
theorem State.guarded_next {s t : State} {check : Option AccessFault} {w : Word} {e : State}
    (h : s.guarded check w e = .next t) :
    (check = none ∧ t = e) ∨ ∃ f, check = some f ∧ t = s.halt (f.cause w) := by
  cases check with
  | none => exact .inl ⟨rfl, by injection h with h; exact h.symm⟩
  | some f => exact .inr ⟨f, rfl, by injection h with h; exact h.symm⟩

/-- A guarded effect always answers a next state. -/
theorem State.guarded_total (s : State) (check : Option AccessFault) (w : Word) (e : State) :
    ∃ t, s.guarded check w e = .next t := by
  cases check <;> exact ⟨_, rfl⟩

/-- What the Executor's step can do when it answers a next state: it is running, and either it halts on the fetch or
on an illegal word, or it runs the instruction fetched (40_control_flow.md R130). -/
theorem State.execStep_next {s t : State} (h : s.execStep = .next t) :
    s.status = .running ∧
      ((∃ c, s.fetch = .error c ∧ t = s.halt c) ∨
        (∃ w, s.fetch = .ok w ∧ decode w = none ∧ t = s.halt (.illegalOpcode w)) ∨
        (∃ w i, s.fetch = .ok w ∧ decode w = some i ∧ exec i s = .next t)) := by
  unfold State.execStep at h
  cases hs : s.status with
  | halted c pc => simp [hs] at h
  | running =>
    refine ⟨rfl, ?_⟩
    simp only [hs] at h
    cases hf : s.fetch with
    | error c =>
      simp only [hf] at h
      exact .inl ⟨c, rfl, by injection h with h; exact h.symm⟩
    | ok w =>
      simp only [hf] at h
      cases hd : decode w with
      | none =>
        simp only [hd] at h
        exact .inr (.inl ⟨w, rfl, hd, by injection h with h; exact h.symm⟩)
      | some i =>
        simp only [hd] at h
        exact .inr (.inr ⟨w, i, rfl, hd, h⟩)

/-- What a step can do when it answers a next state: an Executor turn with free inputs or with the inputs the schedule
names, or a host call (60_exceptions.md R300, R301). -/
theorem step_next {s t : State} (h : step s = .next t) :
    (s.env.schedule = [] ∧ s.withFreeInputs.execStep = .next t) ∨
    (∃ now draw rest, s.env.schedule = .executor now draw :: rest ∧ s.acceptsNow now = true ∧
      ((s.setSchedule rest).withInputs now draw).execStep = .next t) ∨
    (∃ rest, s.env.schedule = .tick :: rest ∧ t = (s.setSchedule rest).tickTimers) ∨
    (∃ k time rest, s.env.schedule = .press k time :: rest ∧ s.acceptsPress time = true ∧
      t = (s.setSchedule rest).recordPress k time) ∨
    (∃ rest, s.env.schedule = .present :: rest ∧ t = (s.setSchedule rest).present.2) := by
  unfold step State.nextTurn at h
  cases hs : s.env.schedule with
  | nil =>
    simp only [hs] at h
    exact .inl ⟨rfl, h⟩
  | cons turn rest =>
    simp only [hs, State.takeTurn] at h
    cases turn with
    | executor now draw =>
      simp only at h
      split at h
      · exact .inr (.inl ⟨now, draw, rest, rfl, ‹_›, h⟩)
      · exact absurd h (by simp)
    | tick => exact .inr (.inr (.inl ⟨rest, rfl, by injection h with h; exact h.symm⟩))
    | press k time =>
      simp only at h
      split at h
      · exact .inr (.inr (.inr (.inl ⟨k, time, rest, rfl, ‹_›, by injection h with h; exact h.symm⟩)))
      · exact absurd h (by simp)
    | present => exact .inr (.inr (.inr (.inr ⟨rest, rfl, by injection h with h; exact h.symm⟩)))

/-- A fetch that succeeds was at an even PC with both bytes in memory (20_memory.md R76). -/
theorem State.fetch_ok {s : State} {w : Word} (h : s.fetch = .ok w) :
    s.pc.toNat % 2 = 0 ∧ s.pc.toNat + 1 < memSize ∧
      w = joinBytes (s.readByte s.pc.toNat) (s.readByte (s.pc.toNat + 1)) := by
  unfold State.fetch at h
  split at h
  · exact absurd h (by simp)
  · split at h
    · exact absurd h (by simp)
    · injection h with h
      exact ⟨by omega, by omega, h.symm⟩

end Sys2Proof.Machine
end

