-- ==== Sys2Proof/Laws/Exec.lean ====
section
/-! SUPPORT. What one instruction can do, said once: it halts the core and changes nothing else, or it has its effect. -/

namespace Sys2Proof.Machine

/-- `t` is the state after the instruction ran, and the checks of its operands held (40_control_flow.md to
44_input.md). -/
def Ran (i : Instr) (s t : State) : Prop :=
  match i with
  | .cls => t = s.clearBack.advance
  | .ret => ∃ live, t = s.drop.setPc (s.top live)
  | .jp nnn => t = s.setPc (zextAddr nnn)
  | .call nnn => ∃ room, t = (s.push (s.pc + 2) room).setPc (zextAddr nnn)
  | .seImm x kk => t = s.skipIf (s.readV x == kk)
  | .sneImm x kk => t = s.skipIf (s.readV x != kk)
  | .seReg x y => t = s.skipIf (s.readV x == s.readV y)
  | .sneReg x y => t = s.skipIf (s.readV x != s.readV y)
  | .skp x => ∃ k, keyOfByte (s.readV x) = some k ∧ t = s.skipIf (s.keyDown k)
  | .sknp x => ∃ k, keyOfByte (s.readV x) = some k ∧ t = s.skipIf (!s.keyDown k)
  | .jpV0 nnn => t = s.setPc (s.offsetTarget nnn)
  | .ldImm x kk => t = (s.writeV x kk).advance
  | .addImm x kk => t = (s.writeV x (s.readV x + kk)).advance
  | .ldReg x y => t = (s.writeV x (s.readV y)).advance
  | .orReg x y => t = (s.writeV x (s.readV x ||| s.readV y)).advance
  | .andReg x y => t = (s.writeV x (s.readV x &&& s.readV y)).advance
  | .xorReg x y => t = (s.writeV x (s.readV x ^^^ s.readV y)).advance
  | .rnd x kk => t = (s.writeV x (s.env.draw &&& kk)).advance
  | .ldVxDt x => t = (s.writeV x s.dt).advance
  | .addReg x y =>
    t = (s.writeResultFlag x (s.readV x + s.readV y) (carryOut (s.readV x) (s.readV y))).advance
  | .subReg x y =>
    t = (s.writeResultFlag x (s.readV x - s.readV y) (noBorrow (s.readV x) (s.readV y))).advance
  | .subnReg x y =>
    t = (s.writeResultFlag x (s.readV y - s.readV x) (noBorrow (s.readV y) (s.readV x))).advance
  | .shr x y =>
    t = (s.writeResultFlag x (s.shiftOperand x y >>> 1) (shiftedOutRight (s.shiftOperand x y))).advance
  | .shl x y =>
    t = (s.writeResultFlag x (s.shiftOperand x y <<< 1) (shiftedOutLeft (s.shiftOperand x y))).advance
  | .ldI nnn => t = (s.setI (zextAddr nnn)).advance
  | .addIVx x => t = (s.setI (s.indexPlus x)).advance
  | .ldFVx x => t = (s.setI (s.glyphAddr x)).advance
  | .ldBVx x =>
    checkWrite s.cfg (s.dataAddr 0) 3 = none ∧
      t = (s.writeBytes (s.dataAddr 0) (bcdDigits (s.readV x))).advance
  | .stRegs x =>
    checkWrite s.cfg (s.dataAddr 0) (x.val + 1) = none ∧
      t = ((s.writeBytes (s.dataAddr 0) (s.blockRegs x)).setI (s.indexAfterBlock x)).advance
  | .ldRegs x =>
    checkRead (s.dataAddr 0) (x.val + 1) = none ∧
      t = ((s.loadBlock (s.dataAddr 0) x).setI (s.indexAfterBlock x)).advance
  | .drw x y n =>
    spriteRowsOk n = true ∧ checkRead (s.dataAddr 0) n.toNat = none ∧ ∃ sprite x0 y0,
      sprite = s.readBytes (s.dataAddr 0) n.toNat ∧ x0 = (s.readV x).toNat % 64 ∧ y0 = (s.readV y).toNat % 32 ∧
      t = ((s.drawBack x0 y0 sprite).writeFlag (drawSprite s.back x0 y0 sprite).collided).advance
  | .ldVxK x =>
    (s.lowestKeyDown = none ∧ t = s) ∨
      ∃ k, s.lowestKeyDown = some k ∧ t = (s.writeV x (BitVec.ofNat 8 k.val)).advance
  | .ldDtVx x => t = (s.setDt (s.readV x)).advance
  | .ldStVx x => t = (s.setSt (s.readV x)).advance

/-- An instruction that answers a next state either halted the core, changing STATUS alone, or ran. -/
theorem exec_next {i : Instr} {s t : State} (h : exec i s = .next t) : (∃ c, t = s.halt c) ∨ Ran i s t := by
  cases i <;> simp only [exec] at h
  case ret =>
    unfold execRet at h
    split at h <;> (injection h with h; subst h)
    exacts [.inr ⟨_, rfl⟩, .inl ⟨_, rfl⟩]
  case call =>
    unfold execCall at h
    split at h <;> (injection h with h; subst h)
    exacts [.inr ⟨_, rfl⟩, .inl ⟨_, rfl⟩]
  case drw =>
    unfold execDrw at h
    split at h
    · rcases State.guarded_next h with ⟨hc, rfl⟩ | ⟨f, _, rfl⟩
      · exact .inr ⟨‹_›, hc, _, _, _, rfl, rfl, rfl, rfl⟩
      · exact .inl ⟨_, rfl⟩
    · injection h with h
      exact .inl ⟨_, h.symm⟩
  case skp =>
    unfold execSkp at h
    split at h <;> (injection h with h; subst h)
    exacts [.inr ⟨_, ‹_›, rfl⟩, .inl ⟨_, rfl⟩]
  case sknp =>
    unfold execSknp at h
    split at h <;> (injection h with h; subst h)
    exacts [.inr ⟨_, ‹_›, rfl⟩, .inl ⟨_, rfl⟩]
  case ldVxK =>
    unfold execLdVxK at h
    split at h <;> (injection h with h; subst h)
    exacts [.inr (.inr ⟨_, ‹_›, rfl⟩), .inr (.inl ⟨‹_›, rfl⟩)]
  case ldBVx =>
    rcases State.guarded_next h with ⟨hc, rfl⟩ | ⟨f, _, rfl⟩
    exacts [.inr ⟨hc, rfl⟩, .inl ⟨_, rfl⟩]
  case stRegs =>
    rcases State.guarded_next h with ⟨hc, rfl⟩ | ⟨f, _, rfl⟩
    exacts [.inr ⟨hc, rfl⟩, .inl ⟨_, rfl⟩]
  case ldRegs =>
    rcases State.guarded_next h with ⟨hc, rfl⟩ | ⟨f, _, rfl⟩
    exacts [.inr ⟨hc, rfl⟩, .inl ⟨_, rfl⟩]
  all_goals
    injection h with h
    exact .inr h.symm

/-- Every instruction answers a next state in every state. -/
theorem exec_total (i : Instr) (s : State) : ∃ t, exec i s = .next t := by
  cases i <;> simp only [exec] <;> first | exact ⟨_, rfl⟩ | exact State.guarded_total _ _ _ _ | skip
  · unfold execRet; split <;> exact ⟨_, rfl⟩
  · unfold execCall; split <;> exact ⟨_, rfl⟩
  · unfold execDrw
    split
    · exact State.guarded_total _ _ _ _
    · exact ⟨_, rfl⟩
  · unfold execSkp; split <;> exact ⟨_, rfl⟩
  · unfold execSknp; split <;> exact ⟨_, rfl⟩
  · unfold execLdVxK; split <;> exact ⟨_, rfl⟩

/-- Storing bytes does not depend on the environment's inputs, nor change them. -/
theorem State.writeBytes_withEnv (s : State) (a : Nat) (bs : List Byte) (e : Env) :
    ({ s with env := e } : State).writeBytes a bs = { s.writeBytes a bs with env := e } := by
  induction bs generalizing s a with
  | nil => rfl
  | cons b rest ih => exact ih (s.writeByte a b) (a + 1)

/-- Reading bytes does not depend on the environment's inputs. -/
theorem State.readBytes_withEnv (s : State) (a n : Nat) (e : Env) :
    ({ s with env := e } : State).readBytes a n = s.readBytes a n := by
  induction n generalizing a with
  | zero => rfl
  | succ n ih =>
    simp only [State.readBytes, ih]
    rfl

end Sys2Proof.Machine
end

