-- ==== Sys2Proof/Laws/Input.lean ====
section
/-! SUPPORT. The laws of the key slots and of the environment's timestamps (44_input.md R261 to R263). -/

namespace Sys2Proof.Machine

/-- `is_down` is a press at most the window ago (44_input.md R262). -/
theorem isDown_iff (window now : Nat) (last : Option Nat) :
    isDown window last now = true ↔ ∃ t, last = some t ∧ now - t ≤ window := by
  cases last <;> simp [isDown]

/-- A press fills its own slot and no other. -/
theorem State.lastPress_recordPress (s : State) (k t : Nat) (j : Fin 16) :
    (s.recordPress k t).lastPress[j] = if k = j.val then some t else s.lastPress[j] := by
  unfold State.recordPress
  split
  · simp only [Fin.getElem_fin, Vector.getElem_set]
  · have : k ≠ j.val := by omega
    simp [this]

/-- The key that LD Vx, K takes is down, and no smaller key is (44_input.md R267). -/
theorem State.lowestKeyDown_eq_some {s : State} {k : Fin 16} (h : s.lowestKeyDown = some k) :
    s.keyDown k = true ∧ ∀ j, j < k → s.keyDown j = false := by
  unfold State.lowestKeyDown at h
  obtain ⟨hk, as, bs, hl, hnot⟩ := List.find?_eq_some_iff_append.1 h
  refine ⟨hk, fun j hj => ?_⟩
  have hmem : j ∈ as := by
    have hs : (List.finRange 16).Pairwise (· < ·) := List.pairwise_lt_finRange 16
    have hj' : j ∈ as ++ k :: bs := hl ▸ List.mem_finRange j
    rw [hl, List.pairwise_append] at hs
    rcases List.mem_append.1 hj' with h1 | h1
    · exact h1
    · rcases List.mem_cons.1 h1 with rfl | h2
      · exact absurd hj (lt_irrefl _)
      · exact absurd ((List.pairwise_cons.1 hs.2.1).1 j h2) (not_lt_of_gt hj)
  simpa using hnot j hmem

/-- LD Vx, K waits exactly when no key is down (44_input.md R267). -/
theorem State.lowestKeyDown_eq_none {s : State} : s.lowestKeyDown = none ↔ ∀ k, s.keyDown k = false := by
  simp [State.lowestKeyDown, List.find?_eq_none]

end Sys2Proof.Machine
end

