-- ==== Sys2Proof/Laws/PerInstr.lean ====
section
/-! SUPPORT. A family of facts about instructions as syntax, one lemma per constructor: the word of every instruction is
classified as its own row of the opcode table (30_encoding.md R103, R104). -/

namespace Sys2Proof.Laws.Classified

/-- The tag of an instruction's row (30_encoding.md R104). -/
def tagOf : Instr → Tag
  | .cls => .clearDisplay
  | .ret => .ret
  | .jp _ => .jump
  | .call _ => .call
  | .seImm _ _ => .skipEqVxKk
  | .sneImm _ _ => .skipNeVxKk
  | .seReg _ _ => .skipEqVxVy
  | .ldImm _ _ => .loadVxKk
  | .addImm _ _ => .addVxKk
  | .ldReg _ _ => .loadVxVy
  | .orReg _ _ => .orVxVy
  | .andReg _ _ => .andVxVy
  | .xorReg _ _ => .xorVxVy
  | .addReg _ _ => .addVxVy
  | .subReg _ _ => .subVxVy
  | .shr _ _ => .shrVx
  | .subnReg _ _ => .subnVxVy
  | .shl _ _ => .shlVx
  | .sneReg _ _ => .skipNeVxVy
  | .ldI _ => .loadI
  | .jpV0 _ => .jumpV0
  | .rnd _ _ => .randVxKk
  | .drw _ _ _ => .draw
  | .skp _ => .skipKeyDown
  | .sknp _ => .skipKeyUp
  | .ldVxDt _ => .loadVxDt
  | .ldVxK _ => .waitKey
  | .ldDtVx _ => .loadDtVx
  | .ldStVx _ => .loadStVx
  | .addIVx _ => .addIVx
  | .ldFVx _ => .loadFontVx
  | .ldBVx _ => .storeBcd
  | .stRegs _ => .storeRegs
  | .ldRegs _ => .loadRegs

/-- The instruction's word is classified as its own row. -/
def Statement (i : Instr) : Prop := classify (encode i) = some (tagOf i)

theorem nibbles_wordNnn (op : Nibble) (nnn : Addr12) :
    nibblesOf (wordNnn op nnn) =
      [op, nnn.extractLsb' 8 4, (nnn.extractLsb' 0 8).extractLsb' 4 4, (nnn.extractLsb' 0 8).extractLsb' 0 4] := by
  simp only [nibblesOf, wordNnn, nibble3_joinBytes, nibble2_joinBytes, nibble1_joinBytes, nibble0_joinBytes,
    high_joinNibbles, low_joinNibbles]

theorem nibbles_wordXkk (op : Nibble) (x : Reg) (kk : Byte) :
    nibblesOf (wordXkk op x kk) = [op, nibbleOfReg x, kk.extractLsb' 4 4, kk.extractLsb' 0 4] := by
  simp only [nibblesOf, wordXkk, nibble3_joinBytes, nibble2_joinBytes, nibble1_joinBytes, nibble0_joinBytes,
    high_joinNibbles, low_joinNibbles]

theorem nibbles_wordXyn (op : Nibble) (x y : Reg) (n : Nibble) :
    nibblesOf (wordXyn op x y n) = [op, nibbleOfReg x, nibbleOfReg y, n] := by
  simp only [nibblesOf, wordXyn, nibble3_joinBytes, nibble2_joinBytes, nibble1_joinBytes, nibble0_joinBytes,
    high_joinNibbles, low_joinNibbles]

theorem cls : Statement .cls := by unfold Statement; decide
theorem ret : Statement .ret := by unfold Statement; decide
theorem jp (nnn : Addr12) : Statement (.jp nnn) := by rw [Statement, encode, classify, nibbles_wordNnn]; rfl
theorem call (nnn : Addr12) : Statement (.call nnn) := by rw [Statement, encode, classify, nibbles_wordNnn]; rfl
theorem seImm (x : Reg) (kk : Byte) : Statement (.seImm x kk) := by rw [Statement, encode, classify, nibbles_wordXkk]; rfl
theorem sneImm (x : Reg) (kk : Byte) : Statement (.sneImm x kk) := by rw [Statement, encode, classify, nibbles_wordXkk]; rfl
theorem seReg (x y : Reg) : Statement (.seReg x y) := by rw [Statement, encode, classify, nibbles_wordXyn]; rfl
theorem ldImm (x : Reg) (kk : Byte) : Statement (.ldImm x kk) := by rw [Statement, encode, classify, nibbles_wordXkk]; rfl
theorem addImm (x : Reg) (kk : Byte) : Statement (.addImm x kk) := by rw [Statement, encode, classify, nibbles_wordXkk]; rfl
theorem ldReg (x y : Reg) : Statement (.ldReg x y) := by rw [Statement, encode, classify, nibbles_wordXyn]; rfl
theorem orReg (x y : Reg) : Statement (.orReg x y) := by rw [Statement, encode, classify, nibbles_wordXyn]; rfl
theorem andReg (x y : Reg) : Statement (.andReg x y) := by rw [Statement, encode, classify, nibbles_wordXyn]; rfl
theorem xorReg (x y : Reg) : Statement (.xorReg x y) := by rw [Statement, encode, classify, nibbles_wordXyn]; rfl
theorem addReg (x y : Reg) : Statement (.addReg x y) := by rw [Statement, encode, classify, nibbles_wordXyn]; rfl
theorem subReg (x y : Reg) : Statement (.subReg x y) := by rw [Statement, encode, classify, nibbles_wordXyn]; rfl
theorem shr (x y : Reg) : Statement (.shr x y) := by rw [Statement, encode, classify, nibbles_wordXyn]; rfl
theorem subnReg (x y : Reg) : Statement (.subnReg x y) := by rw [Statement, encode, classify, nibbles_wordXyn]; rfl
theorem shl (x y : Reg) : Statement (.shl x y) := by rw [Statement, encode, classify, nibbles_wordXyn]; rfl
theorem sneReg (x y : Reg) : Statement (.sneReg x y) := by rw [Statement, encode, classify, nibbles_wordXyn]; rfl
theorem ldI (nnn : Addr12) : Statement (.ldI nnn) := by rw [Statement, encode, classify, nibbles_wordNnn]; rfl
theorem jpV0 (nnn : Addr12) : Statement (.jpV0 nnn) := by rw [Statement, encode, classify, nibbles_wordNnn]; rfl
theorem rnd (x : Reg) (kk : Byte) : Statement (.rnd x kk) := by rw [Statement, encode, classify, nibbles_wordXkk]; rfl
theorem drw (x y : Reg) (n : Nibble) : Statement (.drw x y n) := by rw [Statement, encode, classify, nibbles_wordXyn]; rfl
theorem skp (x : Reg) : Statement (.skp x) := by rw [Statement, encode, classify, nibbles_wordXkk]; rfl
theorem sknp (x : Reg) : Statement (.sknp x) := by rw [Statement, encode, classify, nibbles_wordXkk]; rfl
theorem ldVxDt (x : Reg) : Statement (.ldVxDt x) := by rw [Statement, encode, classify, nibbles_wordXkk]; rfl
theorem ldVxK (x : Reg) : Statement (.ldVxK x) := by rw [Statement, encode, classify, nibbles_wordXkk]; rfl
theorem ldDtVx (x : Reg) : Statement (.ldDtVx x) := by rw [Statement, encode, classify, nibbles_wordXkk]; rfl
theorem ldStVx (x : Reg) : Statement (.ldStVx x) := by rw [Statement, encode, classify, nibbles_wordXkk]; rfl
theorem addIVx (x : Reg) : Statement (.addIVx x) := by rw [Statement, encode, classify, nibbles_wordXkk]; rfl
theorem ldFVx (x : Reg) : Statement (.ldFVx x) := by rw [Statement, encode, classify, nibbles_wordXkk]; rfl
theorem ldBVx (x : Reg) : Statement (.ldBVx x) := by rw [Statement, encode, classify, nibbles_wordXkk]; rfl
theorem stRegs (x : Reg) : Statement (.stRegs x) := by rw [Statement, encode, classify, nibbles_wordXkk]; rfl
theorem ldRegs (x : Reg) : Statement (.ldRegs x) := by rw [Statement, encode, classify, nibbles_wordXkk]; rfl

end Sys2Proof.Laws.Classified
end

