-- ==== Sys2Proof/Tests/Slice0.lean ====
section
/-! SUPPORT. Small tests: the words of 30_encoding.md, the vectors of 95_test_vectors.md (named beside each test), and a
witness for the hypotheses of every statement for the provers. -/

namespace Sys2Proof.Tests

open Sys2Proof.Machine

/-! ### Helpers -/

/-- What `f` sees of the next state an outcome answers, if it answers one. -/
def seen {α : Type} (o : Outcome) (f : State → α) : Option α :=
  match o with
  | .next t => some (f t)
  | .fault _ => none
  | .refused _ => none

/-- What `f` sees after the Executor ran the word `w` at the PC of `s`, at 1000 ms and with the random byte 0xB7. -/
def ran {α : Type} (s : State) (w : Nat) (f : State → α) : Option α :=
  seen (step ((s.withFetchWord 16 w).setSchedule [.executor 1000 0xB7])) f

/-- The core right after reset. -/
def s0 : State := State.reset

/-- The core right after reset, with two general registers set. -/
def withRegs (x : Reg) (a : Byte) (y : Reg) (b : Byte) : State := (s0.writeV x a).writeV y b

/-- V0..V3 = 11 22 33 44, I as given. -/
def block (i : Word) : State := ((withRegs 0 0x11 1 0x22).writeV 2 0x33 |>.writeV 3 0x44).setI i

/-! ### Well-formedness: the one check, refused (43_display.md R234, R241) -/

theorem test_wellFormed_refuses_empty_sprite : (Instr.drw 0 1 0).wellFormed = false := by decide
theorem test_wellFormed_accepts_full_sprite : (Instr.drw 0 1 15).wellFormed = true := by decide

/-! ### Decoding: a word of every row, written out from the patterns of 30_encoding.md R104 -/

theorem test_decode_cls : decode 0x00E0 = some .cls := by decide
theorem test_decode_ret : decode 0x00EE = some .ret := by decide
theorem test_decode_jp : decode 0b0001001000110100 = some (.jp 0x234) := by decide
theorem test_decode_call : decode 0b0010101010111100 = some (.call 0xABC) := by decide
theorem test_decode_seImm : decode 0b0011010100101011 = some (.seImm 5 0x2B) := by decide
theorem test_decode_sneImm : decode 0b0100111100000001 = some (.sneImm 15 0x01) := by decide
theorem test_decode_seReg : decode 0b0101000100100000 = some (.seReg 1 2) := by decide
theorem test_decode_ldImm : decode 0b0110101000101011 = some (.ldImm 10 0x2B) := by decide
theorem test_decode_addImm : decode 0b0111000000000011 = some (.addImm 0 0x03) := by decide
theorem test_decode_ldReg : decode 0b1000000100100000 = some (.ldReg 1 2) := by decide
theorem test_decode_orReg : decode 0b1000000100100001 = some (.orReg 1 2) := by decide
theorem test_decode_andReg : decode 0b1000000100100010 = some (.andReg 1 2) := by decide
theorem test_decode_xorReg : decode 0b1000000100100011 = some (.xorReg 1 2) := by decide
theorem test_decode_addReg : decode 0b1000000100100100 = some (.addReg 1 2) := by decide
theorem test_decode_subReg : decode 0b1000000100100101 = some (.subReg 1 2) := by decide
theorem test_decode_shr : decode 0b1000000100100110 = some (.shr 1 2) := by decide
theorem test_decode_subnReg : decode 0b1000000100100111 = some (.subnReg 1 2) := by decide
theorem test_decode_shl : decode 0b1000000100101110 = some (.shl 1 2) := by decide
theorem test_decode_sneReg : decode 0b1001000100100000 = some (.sneReg 1 2) := by decide
theorem test_decode_ldI : decode 0b1010001011110000 = some (.ldI 0x2F0) := by decide
theorem test_decode_jpV0 : decode 0b1011001100000000 = some (.jpV0 0x300) := by decide
theorem test_decode_rnd : decode 0b1100001100001111 = some (.rnd 3 0x0F) := by decide
theorem test_decode_drw : decode 0b1101011110100011 = some (.drw 7 10 3) := by decide
theorem test_decode_skp : decode 0b1110010110011110 = some (.skp 5) := by decide
theorem test_decode_sknp : decode 0b1110010110100001 = some (.sknp 5) := by decide
theorem test_decode_ldVxDt : decode 0b1111000100000111 = some (.ldVxDt 1) := by decide
theorem test_decode_ldVxK : decode 0b1111000100001010 = some (.ldVxK 1) := by decide
theorem test_decode_ldDtVx : decode 0b1111000100010101 = some (.ldDtVx 1) := by decide
theorem test_decode_ldStVx : decode 0b1111000100011000 = some (.ldStVx 1) := by decide
theorem test_decode_addIVx : decode 0b1111000100011110 = some (.addIVx 1) := by decide
theorem test_decode_ldFVx : decode 0b1111000100101001 = some (.ldFVx 1) := by decide
theorem test_decode_ldBVx : decode 0b1111000100110011 = some (.ldBVx 1) := by decide
theorem test_decode_stRegs : decode 0b1111000101010101 = some (.stRegs 1) := by decide
theorem test_decode_ldRegs : decode 0b1111000101100101 = some (.ldRegs 1) := by decide

/-- EX-1: the five fields of F1 2B. -/
theorem test_fields : fieldsOf 0xF12B = { nnn := 0x12B, n := 0xB, x := 1, y := 2, kk := 0x2B } := by decide
/-- EN-4, EN-6, EN-7, EN-8, EN-10: illegal words. -/
theorem test_illegal : [0x0000, 0x00E1, 0x0123, 0x5121, 0x8128, 0x812D, 0x812F, 0x9121, 0xE19F, 0xE1A2, 0xF100, 0xF108,
    0xF166, 0xF1FF].all (fun w => (decode w).isNone) = true := by decide +kernel
/-- EX-1: the bytes F1 2B are an illegal word, rejected by name. -/
theorem test_decodeBytes_illegal : decodeBytes [0xF1, 0x2B] = .error (.illegal 0xF12B) := rfl
/-- EN-1: the byte at the lower address is bits 15:8. -/
theorem test_decodeTableWord : decodeTableWord 16 0xA2F0 = some (.ldI 0x2F0) := by decide

/-! ### Control flow (vectors CF) -/

/-- CF-2 -/
theorem test_jp : ran s0 0x1203 (fun t => t.pc) = some 0x203 := by decide
/-- CF-4, at 0x200 -/
theorem test_call : ran s0 0x2210 (fun t => (t.pc, t.sp.val, t.stack[0])) = some (0x210, 1, 0x202) := by decide
/-- CF-7, its last step -/
theorem test_call_overflow : ran { s0 with sp := 16 } 0x2200 (fun t => (t.status, t.sp.val)) =
    some (.halted (.stackOverflow 0x2200) 0x200, 16) := by decide
/-- CF-5 -/
theorem test_ret : ran { s0 with sp := 1, stack := s0.stack.set 0 0x206 } 0x00EE
    (fun t => (t.pc, t.sp.val, t.stack[0])) = some (0x206, 0, 0x206) := by decide
/-- CF-8 -/
theorem test_ret_underflow : ran s0 0x00EE (fun t => (t.status, t.pc)) =
    some (.halted (.stackUnderflow 0x00EE) 0x200, 0x200) := by decide
/-- CF-10 -/
theorem test_jpV0 : ran (s0.writeV 0 0xFF) 0xBFFF (fun t => t.pc) = some 0x10FE := by decide
/-- CF-13, CF-14 -/
theorem test_seImm : ran (s0.writeV 3 0x2B) 0x332B (fun t => t.pc) = some 0x204 ∧
    ran (s0.writeV 3 0x2A) 0x332B (fun t => t.pc) = some 0x202 := by decide
/-- CF-15, CF-16 -/
theorem test_sneImm : ran (s0.writeV 3 0x2B) 0x432B (fun t => t.pc) = some 0x202 ∧
    ran s0 0x432B (fun t => t.pc) = some 0x204 := by decide
/-- CF-17, CF-18 -/
theorem test_seReg : ran (withRegs 1 7 2 7) 0x5120 (fun t => t.pc) = some 0x204 ∧
    ran (withRegs 1 7 2 8) 0x5120 (fun t => t.pc) = some 0x202 := by decide
/-- CF-20, CF-21 -/
theorem test_sneReg : ran (withRegs 1 7 2 8) 0x9120 (fun t => t.pc) = some 0x204 ∧
    ran (s0.writeV 4 0x99) 0x9440 (fun t => t.pc) = some 0x202 := by decide
/-- CF-24 -/
theorem test_skip_at_end : ran { s0 with pc := 0xFFC } 0x3000 (fun t => t.pc) = some 0x1000 := by decide

/-! ### Registers and ALU (vectors ALU) -/

/-- ALU-1 -/
theorem test_ldImm : ran s0 0x6A2B (fun t => (t.readV 10, t.pc)) = some (0x2B, 0x202) := by decide
/-- ALU-3 -/
theorem test_ldReg : ran (s0.writeV 2 0x99) 0x8120 (fun t => (t.readV 1, t.readV 2)) = some (0x99, 0x99) := by decide
/-- ALU-4 -/
theorem test_addImm : ran (withRegs 0 0xFE 15 0x55) 0x7003 (fun t => (t.readV 0, t.readV 15)) = some (0x01, 0x55) := by
  decide
/-- ALU-6 -/
theorem test_addImm_vf : ran (s0.writeV 15 1) 0x7F01 (fun t => t.readV 15) = some 2 := by decide
/-- ALU-7 -/
theorem test_orReg : ran ((withRegs 1 0x0F 2 0xF0).writeV 15 0x77) 0x8121 (fun t => (t.readV 1, t.readV 15)) =
    some (0xFF, 0x77) := by decide
/-- ALU-9 -/
theorem test_andReg : ran (withRegs 1 0x3C 2 0x0F) 0x8122 (fun t => t.readV 1) = some 0x0C := by decide
/-- ALU-10 -/
theorem test_xorReg : ran (withRegs 1 0x3C 2 0x0F) 0x8123 (fun t => t.readV 1) = some 0x33 := by decide
/-- ALU-14 -/
theorem test_addReg_vf : ran (withRegs 1 0x90 15 0x80) 0x8F14 (fun t => (t.readV 1, t.readV 15)) = some (0x90, 1) := by
  decide
/-- ALU-15 -/
theorem test_addReg_from_vf : ran (withRegs 1 1 15 1) 0x81F4 (fun t => (t.readV 1, t.readV 15)) = some (2, 0) := by decide
/-- ALU-19 -/
theorem test_subReg_vf : ran (withRegs 15 0x05 1 0x0A) 0x8F15 (fun t => t.readV 15) = some 0 := by decide
/-- EX-6, the reversed operands -/
theorem test_subReg : ran (withRegs 1 0x0A 2 0x05) 0x8125 (fun t => (t.readV 1, t.readV 15)) = some (5, 1) := by decide
/-- ALU-22 -/
theorem test_subnReg : ran (withRegs 1 0x0A 2 0x05) 0x8127 (fun t => (t.readV 1, t.readV 15)) = some (0xFB, 0) := by
  decide
/-- ALU-25 -/
theorem test_shr : ran (withRegs 1 0x04 2 0xFF) 0x8126 (fun t => (t.readV 1, t.readV 15)) = some (2, 0) := by decide
/-- ALU-26 -/
theorem test_shr_vy : ran { withRegs 1 0 2 3 with cfg := { Config.default with shiftSource := .vy } } 0x8126
    (fun t => (t.readV 1, t.readV 15)) = some (1, 1) := by decide
/-- ALU-30 -/
theorem test_shl : ran (s0.writeV 1 0x40) 0x810E (fun t => (t.readV 1, t.readV 15)) = some (0x80, 0) := by decide
/-- ALU-31 -/
theorem test_shl_vf : ran (s0.writeV 15 0x81) 0x8FFE (fun t => t.readV 15) = some 1 := by decide
/-- ALU-33 -/
theorem test_rnd : ran s0 0xC30F (fun t => t.readV 3) = some 0x07 := by decide
/-- ALU-36 -/
theorem test_ldVxDt : ran { s0 with dt := 0x3C } 0xF207 (fun t => (t.readV 2, t.dt)) = some (0x3C, 0x3C) := by decide
/-- ALU-37 -/
theorem test_ldDtVx : ran (s0.writeV 2 0x3C) 0xF215 (fun t => (t.dt, t.st)) = some (0x3C, 0) := by decide
/-- ALU-38 -/
theorem test_ldStVx : ran (s0.writeV 2 0x10) 0xF218 (fun t => (t.st, t.dt)) = some (0x10, 0) := by decide

/-! ### Index and memory (vectors IM) -/

/-- IM-2 -/
theorem test_ldI : ran s0 0xAFFF (fun t => t.i) = some 0xFFF := by decide
/-- IM-4 -/
theorem test_addIVx : ran ((s0.writeV 1 1).setI 0xFFF) 0xF11E (fun t => (t.i, t.readV 15)) = some (0x1000, 0) := by decide
/-- IM-5 -/
theorem test_addIVx_wraps : ran ((s0.writeV 1 2).setI 0xFFFF) 0xF11E (fun t => t.i) = some 1 := by decide
/-- IM-7 -/
theorem test_ldFVx : ran (s0.writeV 0 0x1A) 0xF029 (fun t => t.i) = some 0x032 := by decide
/-- IM-8 -/
theorem test_ldFVx_base : ran { s0.writeV 0 0x0B with cfg := { Config.default with fontBase := 0x50 } } 0xF029
    (fun t => t.i) = some 0x087 := by decide
/-- IM-10 -/
theorem test_ldBVx : ran ((s0.writeV 2 0x9C).setI 0x300) 0xF233 (fun t => (t.readBytes 0x300 3, t.i)) =
    some ([1, 5, 6], 0x300) := by decide
/-- IM-14 -/
theorem test_ldBVx_reserved : ran ((s0.writeV 2 0x9C).setI 0x1FE) 0xF233 (fun t => (t.status, t.readBytes 0x1FE 2)) =
    some (.halted (.reservedWrite 0x1FE 0xF233) 0x200, [0, 0]) := by decide
/-- IM-21 -/
theorem test_stRegs_increment :
    ran { block 0x400 with cfg := { Config.default with loadStoreIncrement := true } } 0xF355
      (fun t => (t.readBytes 0x400 5, t.i)) = some ([0x11, 0x22, 0x33, 0x44, 0], 0x404) := by decide
/-- IM-19 -/
theorem test_stRegs_range : ran (block 0xFFE) 0xF355 (fun t => (t.status, t.readBytes 0xFFE 2)) =
    some (.halted (.addressOutOfRange 0x1000 (some 0xF355)) 0x200, [0, 0]) := by decide
/-- IM-23 -/
theorem test_ldRegs : ran s0 0xF465 (fun t => (t.v.toList.take 6, t.i)) =
    some ([0xF0, 0x90, 0x90, 0x90, 0xF0, 0], 0) := by decide
/-- IM-25 -/
theorem test_ldRegs_range : ran (block 0xFFE) 0xF365 (fun t => (t.status, t.readV 0)) =
    some (.halted (.addressOutOfRange 0x1000 (some 0xF365)) 0x200, 0x11) := by decide

/-! ### Display (vectors DS) -/

/-- DS-3: the rows touched, wrapped; bit x of a row is the pixel x. -/
theorem test_drw_wraps : ran (withRegs 0 62 1 30) 0xD015
    (fun t => (t.back[30], t.back[31], t.back[0], t.back[2], t.readV 15)) =
    some (0xC000000000000003, 0x4000000000000002, 0x4000000000000002, 0xC000000000000003, 0) := by decide +kernel
/-- DS-2: glyph 0 drawn over itself. -/
theorem test_drw_collides : (ran s0 0xD015 fun t => ran (t.setPc 0x200) 0xD015
    (fun u => (decide (u.back = Plane.blank), u.readV 15, u.dirty))) = some (some (true, 1, true)) := by decide +kernel
/-- DS-13 -/
theorem test_cls : ran { s0 with back := s0.back.set 3 5, front := s0.front.set 1 7 } 0x00E0
    (fun t => (decide (t.back = Plane.blank), t.front[1], t.dirty)) = some (true, 7, true) := by decide
/-- FLT-7 -/
theorem test_empty_sprite : ran (s0.setI 0xFFFF) 0xD010 (fun t => t.status) =
    some (.halted (.undefinedOperand .emptySprite 0xD010) 0x200) := by decide
/-- DS-14 -/
theorem test_present : seen (step ({ s0 with back := s0.back.set 3 5, dirty := true }.setSchedule [.present]))
    (fun t => (t.front[3], t.back[3], t.dirty)) = some (5, 5, false) := by decide

/-! ### Input and timers (vectors IN, TM) -/

/-- IN-7, IN-8 -/
theorem test_skp : ran ((s0.writeV 5 7).recordPress 7 960) 0xE59E (fun t => t.pc) = some 0x204 ∧
    ran ((s0.writeV 5 7).recordPress 7 850) 0xE59E (fun t => t.pc) = some 0x202 := by decide
/-- IN-9, IN-10 -/
theorem test_sknp : ran (s0.writeV 5 7) 0xE5A1 (fun t => t.pc) = some 0x204 ∧
    ran ((s0.writeV 5 7).recordPress 7 990) 0xE5A1 (fun t => t.pc) = some 0x202 := by decide
/-- IN-11 -/
theorem test_key_index : ran (s0.writeV 5 0x10) 0xE59E (fun t => (t.status, t.pc)) =
    some (.halted (.undefinedOperand (.keyIndex 0x10) 0xE59E) 0x200, 0x200) := by decide
/-- IN-13 -/
theorem test_ldVxK_waits : ran (s0.writeV 2 0x55) 0xF20A (fun t => (t.readV 2, t.pc)) = some (0x55, 0x200) := by decide
/-- IN-14 -/
theorem test_ldVxK : ran ((s0.recordPress 9 1000).recordPress 3 1000) 0xF20A (fun t => (t.readV 2, t.pc)) =
    some (3, 0x202) := by decide
/-- IN-3, IN-4 -/
theorem test_window : isDown 100 (some 1000) 1100 = true ∧ isDown 100 (some 1000) 1101 = false := by decide
/-- TM-1 and TM-2 -/
theorem test_tick : seen (step ({ s0 with dt := 2, st := 1 }.setSchedule [.tick])) (fun t => (t.dt, t.st)) =
    some (1, 0) ∧ ({ s0 with dt := 1 }.tickTimers.tickTimers.dt) = 0 := by decide

/-! ### Faults and creation (vectors FLT, RST) -/

/-- FLT-5 -/
theorem test_fetch_misaligned : seen (step ({ s0 with pc := 0xFFF }.setSchedule [.executor 0 0])) (fun t => t.status) =
    some (.halted .misalignedPC 0xFFF) := by decide
/-- FLT-4 -/
theorem test_fetch_range : seen (step ({ s0 with pc := 0x1000 }.setSchedule [.executor 0 0])) (fun t => t.status) =
    some (.halted (.addressOutOfRange 0x1000 none) 0x1000) := by decide
/-- RST-2, for the free inputs too -/
theorem test_empty_program : seen (step s0) (fun t => t.status) = some (.halted (.illegalOpcode 0) 0x200) := by decide
/-- RST-1 -/
theorem test_create : seen (State.create Config.default [0x00, 0xE0, 0x12, 0x02])
    (fun t => (t.readBytes 0x1FF 6, t.readBytes 0 2, t.pc)) = some ([0, 0x00, 0xE0, 0x12, 0x02, 0], [0xF0, 0x90], 0x200) := by
  decide

/-- The codes of 60_exceptions.md R281. -/
theorem test_cause_codes : (Cause.illegalOpcode 0).code = 1 ∧ (Cause.addressOutOfRange 0 none).code = 4 ∧
    (Cause.undefinedOperand .emptySprite 0).code = 7 := by decide

/-! ### Witnesses: concrete states and operands that meet the hypotheses of each statement -/

theorem witness_EncodeOfDecode : decode 0x8125 = some (.subReg 1 2) := by decide

theorem witness_OpcodeRowsDisjoint : ∃ p q, p ∈ opcodeTable ∧ q ∈ opcodeTable ∧
    patternFits p.pattern (nibblesOf 0xD125) = true ∧ patternFits q.pattern (nibblesOf 0xD125) = true :=
  ⟨⟨[.lit 0xD, .x, .y, .n], .draw⟩, ⟨[.lit 0xD, .x, .y, .n], .draw⟩, by decide, by decide, by decide, by decide⟩

theorem witness_MaskMatchAgreesWithMatchers : (⟨[.lit 0x1, .nnn], .jump⟩ : Row) ∈ opcodeTable := by decide

/-- The inner case of SetDelayTimerResult. -/
theorem witness_SetDelayTimerResult : s0.readV 4 = 0 := by decide

/-- An odd target, and the even ones at both ends of the range of `nnn`. -/
theorem witness_JumpResult : (0xFFF : Addr12).toNat % 2 = 1 ∧ (0x000 : Addr12).toNat % 2 = 0 ∧
    (0xFFE : Addr12).toNat % 2 = 0 := by decide

theorem witness_CallResult : ({ s0 with sp := 15 } : State).sp.val < 16 := by decide

/-- One live entry, and sixteen. -/
theorem witness_ReturnResult : ({ s0 with sp := 1 } : State).sp.val = (0 : Fin 16).val + 1 ∧
    ({ s0 with sp := 16 } : State).sp.val = (15 : Fin 16).val + 1 := by decide

theorem witness_StackBoundsHalt : ({ s0 with sp := 16 } : State).sp.val = 16 ∧ s0.sp.val = 0 := by decide

theorem witness_CallThenReturn : ∃ s t u : State, s.sp.val < 16 ∧ exec (.call 0x300) s = .next t ∧ u.stack = t.stack ∧
    u.sp = t.sp :=
  ⟨{ s0 with sp := 15 }, ({ s0 with sp := 15 }.push 0x202 (by decide)).setPc 0x300, _, by decide, rfl, rfl, rfl⟩

/-- At the top of memory, and at the first writable address under the policy `fault`. -/
theorem witness_BcdStoreResult : ((0xFFD : Word).toNat + 3 ≤ 0x1000) ∧
    ((0x200 : Word).toNat + 3 ≤ 0x1000 ∧ s0.cfg.reservedWrite = .fault ∧ 0x200 ≤ (s0.setI 0x200).i.toNat) := by decide

theorem witness_BlockStoreResult : (s0.setI 0xFF0).i.toNat + (15 : Reg).val + 1 ≤ 0x1000 ∧
    (s0.cfg.reservedWrite = .fault ∧ 0x200 ≤ (s0.setI 0xFF0).i.toNat) ∧ 0x200 ≤ (s0.setI 0x200).i.toNat := by decide

theorem witness_BlockLoadResult : (s0.setI 0xFF0).i.toNat + (15 : Reg).val + 1 ≤ 0x1000 ∧
    (s0.setI 0x000).i.toNat + (0 : Reg).val + 1 ≤ 0x1000 := by decide

theorem witness_BlockStoreLoadRoundTrip : ∃ s t u v : State, t.status = .running ∧ exec (.stRegs 3) s = .next t ∧
    u.mem = t.mem ∧ u.cfg = t.cfg ∧ u.status = .running ∧ u.i = s.i ∧ exec (.ldRegs 3) u = .next v :=
  ⟨block 0x400, ((block 0x400).writeBytes 0x400 [0x11, 0x22, 0x33, 0x44]).advance,
    (s0.writeBytes 0x400 [0x11, 0x22, 0x33, 0x44]).setI 0x400, _, rfl, rfl, rfl, rfl, rfl, rfl, rfl⟩

/-- Each clause at the nearest failing address: three bytes at 0xFFE, one register at 0x1000, four rows at 0xFFD, and the
last reserved address. -/
theorem witness_AccessFaultsHalt : 0x1000 < (s0.setI 0xFFE).i.toNat + 3 ∧
    0x1000 < (s0.setI 0x1000).i.toNat + (0 : Reg).val + 1 ∧
    ((4 : Nibble) ≠ 0 ∧ 0x1000 < (s0.setI 0xFFD).i.toNat + (4 : Nibble).toNat) ∧
    (s0.cfg.reservedWrite = .fault ∧ (s0.setI 0x1FF).i.toNat < 0x200) := by decide

/-- Fifteen rows at the top of memory; a drawing on a blank plane, one over a set pixel, and a pixel it does not touch. -/
theorem witness_DrawResult : ((15 : Nibble) ≠ 0 ∧ (s0.setI 0xFF1).i.toNat + (15 : Nibble).toNat ≤ 0x1000) ∧
    (s0.getPixel .back 0 0 = false ∧ (s0.readByte (s0.dataAddr 0)).getLsbD 7 = true) ∧
    ({ s0 with back := s0.back.set 0 1 }.getPixel .back 0 0 = true) ∧
    (∀ r, r < 15 → ∀ c, c < 8 → ¬ (40 = (0 + c) % 64 ∧ 20 = (0 + r) % 32)) := by decide

theorem witness_DrawTwiceErases : (63 : Nat) < 64 ∧ (31 : Nat) < 32 ∧ (List.replicate 15 (0x80 : Byte)).length ≤ 15 ∧
    (0x80 : Byte) ∈ List.replicate 15 (0x80 : Byte) ∧ (0x80 : Byte) ≠ 0 := by decide

/-- A press exactly a window ago and one a millisecond longer; another key; a key never pressed. -/
theorem witness_KeyDownWindow : (1000 : Nat) ≤ 1100 ∧ 1100 - 1000 ≤ s0.cfg.debounceWindow ∧
    ¬ 1101 - 1000 ≤ s0.cfg.debounceWindow ∧ (9 : Fin 16) ≠ 4 ∧ s0.lastPress[(9 : Fin 16)] = none := by decide

theorem witness_SkipKeyResults : ((s0.writeV 5 15).readV 5).toNat = (15 : Fin 16).val := by decide

theorem witness_KeyIndexHalts : 15 < ((s0.writeV 5 16).readV 5).toNat := by decide

theorem witness_WaitKeyTakesLowest : ((s0.recordPress 9 0).recordPress 3 0).keyDown 3 = true ∧
    ∀ j : Fin 16, j < 3 → ((s0.recordPress 9 0).recordPress 3 0).keyDown j = false := by decide

theorem witness_WaitKeyWaits : ∀ k : Fin 16, s0.keyDown k = false := by decide

theorem witness_TickCountsDown : (s0.setSchedule [.tick]).env.schedule = .tick :: [] := rfl

/-- A press at the very time of an earlier one, of a key and of a key index above 15. -/
theorem witness_PressRecords : (((s0.recordPress 3 50).setSchedule [.press 4 50]).env.schedule = .press 4 50 :: []) ∧
    (((s0.recordPress 3 50).setSchedule [.press 16 50]).env.schedule = .press 16 50 :: []) ∧
    (∀ j : Fin 16, ∀ p ∈ ((s0.recordPress 3 50).lastPress[j]), p ≤ 50) :=
  ⟨rfl, rfl, by decide⟩

theorem witness_PresentCopies : (s0.setSchedule [.present]).env.schedule = .present :: [] := rfl

/-- With no turn listed, and with an Executor turn at the time of the last press. -/
theorem witness_StepRunsDecoded :
    (let s := s0.withFetchWord 16 0x6A2B
     s.status = .running ∧ s.fetch = .ok 0x6A2B ∧ decode 0x6A2B = some (.ldImm 10 0x2B) ∧ s.env.schedule = []) ∧
    (let s := ((s0.recordPress 3 50).withFetchWord 16 0x6A2B).setSchedule [.executor 50 7]
     s.status = .running ∧ s.fetch = .ok 0x6A2B ∧ s.env.schedule = .executor 50 7 :: [] ∧ s.latestPress ≤ 50 ∧
      s.env.now ≤ 50) :=
  ⟨⟨rfl, rfl, by decide, rfl⟩, ⟨rfl, rfl, rfl, by decide, by decide⟩⟩

theorem witness_FetchAndIllegalHalt : s0.status = .running ∧
    ({ s0 with pc := 0x201 } : State).fetch = .error .misalignedPC ∧ s0.fetch = .ok 0 ∧ decode 0 = none :=
  ⟨rfl, rfl, rfl, by decide⟩

/-- Each clause at the edge of memory: 0xFFF, 0x1000 and 0xFFE. -/
theorem witness_FetchBigEndian : (0xFFF : Word).toNat % 2 = 1 ∧
    ((0x1000 : Word).toNat % 2 = 0 ∧ 0x1000 ≤ (0x1000 : Word).toNat + 1) ∧
    ((0xFFE : Word).toNat % 2 = 0 ∧ (0xFFE : Word).toNat + 1 < 0x1000) := by decide

theorem witness_HaltIsTerminal : ∃ s t : State, s.status = .halted .misalignedPC 0x201 ∧ step s = .next t :=
  ⟨({ s0 with pc := 0x201, status := .halted .misalignedPC 0x201 } : State).setSchedule [.tick], _, rfl, rfl⟩

theorem witness_AdvanceByTwo : ∃ t, redirects (.ldImm 1 2) = false ∧ s0.status = .running ∧
    exec (.ldImm 1 2) s0 = .next t ∧ t.status = .running :=
  ⟨(s0.writeV 1 2).advance, rfl, rfl, rfl, rfl⟩

theorem witness_StoreIsFetchedNext : ∃ s t : State, 1 ≤ (1 : Reg).val ∧ s.i = s.pc + 2 ∧ s.pc.toNat % 2 = 0 ∧
    s.status = .running ∧ exec (.stRegs 1) s = .next t ∧ t.status = .running :=
  ⟨block 0x202, ((block 0x202).writeBytes 0x202 [0x11, 0x22]).advance, by decide, by decide, by decide, rfl, rfl, rfl⟩

theorem witness_RegisterFrame : ∃ t, exec (.addReg 1 2) s0 = .next t ∧ mayWriteV (.addReg 1 2) 3 = false := ⟨_, rfl, rfl⟩

/-- For `Fx33`, an address below and one above the three bytes. -/
theorem witness_MemoryFrame : ∃ t, exec (.ldBVx 1) (s0.setI 0x300) = .next t ∧
    (∀ k, k < 3 → 0x2FF ≠ (s0.setI 0x300).dataAddr k) ∧ (∀ k, k < 3 → 0x303 ≠ (s0.setI 0x300).dataAddr k) :=
  ⟨_, rfl, by decide, by decide⟩

theorem witness_SpecialRegisterFrame : ∃ t, exec (.orReg 1 2) s0 = .next t ∧ (∀ nnn, Instr.orReg 1 2 ≠ .call nnn) ∧
    Instr.orReg 1 2 ≠ .ret ∧ Instr.orReg 1 2 ≠ .cls ∧ (∀ x, Instr.orReg 1 2 ≠ .ldDtVx x ∧ Instr.orReg 1 2 ≠ .ldStVx x) ∧
    (∀ x y n, Instr.orReg 1 2 ≠ .drw x y n) ∧ (∀ nnn, Instr.orReg 1 2 ≠ .ldI nnn) ∧
    (∀ x, Instr.orReg 1 2 ≠ .addIVx x ∧ Instr.orReg 1 2 ≠ .ldFVx x) ∧
    (∀ x, Instr.orReg 1 2 ≠ .stRegs x ∧ Instr.orReg 1 2 ≠ .ldRegs x) :=
  ⟨_, rfl, by simp⟩

/-- A key instruction for the random byte, and RND for the time. -/
theorem witness_InputsReadOnlyWhereSaid : (∃ t, exec (.skp 1) s0 = .next t) ∧ (∀ x kk, Instr.skp 1 ≠ .rnd x kk) ∧
    (∃ t, exec (.rnd 1 3) s0 = .next t) ∧
    (∀ x, Instr.rnd 1 3 ≠ .skp x ∧ Instr.rnd 1 3 ≠ .sknp x ∧ Instr.rnd 1 3 ≠ .ldVxK x) :=
  ⟨⟨_, rfl⟩, by simp, ⟨_, rfl⟩, by simp⟩

/-- Outside the font, on both sides where FONT_BASE leaves room. -/
theorem witness_ResetValues : s0.cfg.fontBase.val + 80 ≤ 80 ∧ ¬ 79 < s0.cfg.fontBase.val := by decide

/-- The longest program, and the shortest that is refused. -/
theorem witness_CreateLoadsProgram : (List.replicate 3584 (0 : Byte)).length ≤ 3584 ∧
    3584 < (List.replicate 3585 (0 : Byte)).length :=
  ⟨List.length_replicate.le, List.length_replicate.ge⟩

theorem witness_StepKeepsInvariant : ∃ t, State.reset.Inv ∧ step State.reset = .next t :=
  ⟨_, ⟨⟨List.Pairwise.nil, by simp [State.reset, State.created]⟩, fun _ _ _ => rfl, fun _ h => absurd h (Nat.not_lt_zero _),
    fun _ _ h => by cases h⟩, rfl⟩

/-- CF-3: `1200` at 0x200. -/
theorem witness_ParkedStaysParked : ∃ t, (s0.withFetchWord 16 0x1200).Parked ∧ step (s0.withFetchWord 16 0x1200) = .next t :=
  ⟨_, ⟨rfl, 0x1200, 0x200, rfl, by decide, by decide⟩, rfl⟩

end Sys2Proof.Tests
end

/-! PROOFS. The display instructions: clearing BACK (43_display.md R232, R239). -/

namespace Sys2Proof.Machine

theorem exec_cls (s : State) : exec .cls s = .next s.clearBack.advance := rfl

/-- Pixel reads do not see the PC. -/
@[simp] theorem State.advance_getPixel (s : State) (which : PlaneName) (x y : Nat) :
    s.advance.getPixel which x y = s.getPixel which x y := by
  cases which <;> simp [State.getPixel]

/-- Every pixel of BACK reads as 0 after `ClearBack()` (43_display.md R232). -/
@[simp] theorem State.clearBack_getPixel_back (s : State) (x y : Nat) :
    s.clearBack.getPixel .back x y = false := by
  simp [State.getPixel]

/-- Settles O33: `00E0` runs `ClearBack()` and advances the PC, whose laws give BACK and DIRTY and the frame field by
field. -/
theorem clearDisplayResult : Obligations.ClearDisplayResult := by
  intro s
  have decodes : decode 0x00E0 = some .cls := by decide
  have cleared (x y : Nat) : s.clearBack.advance.getPixel .back x y = false := by simp
  have regs : s.SameRegs s.clearBack.advance := fun r => by simp
  have memory : s.SameMemory s.clearBack.advance := fun a => by simp
  have stack : s.SameStack s.clearBack.advance := by simp [State.SameStack]
  have timers : s.SameTimers s.clearBack.advance := by simp [State.SameTimers]
  have host : s.SameHost s.clearBack.advance := by simp [State.SameHost]
  exact ⟨decodes, _, exec_cls s, cleared, by simp, by simp, by simp, by simp, regs, memory, stack, timers, host⟩

end Sys2Proof.Machine

/-! PROOFS. The debounce window of the keys (44_input.md R262). -/

namespace Sys2Proof.Machine

/-- A key never pressed is not down, whatever the time. -/
theorem State.keyDown_of_never_pressed {s : State} {k : Fin 16} (never : s.lastPress[k] = none) :
    s.keyDown k = false := by
  rw [State.keyDown, never]
  rfl

/-- A key is down by its own press slot, the time of the step and the window, so states that agree on those agree on the
key. -/
theorem State.keyDown_congr {s t : State} {k : Fin 16} (slot : t.lastPress[k] = s.lastPress[k])
    (time : t.env.now = s.env.now) (window : t.cfg.debounceWindow = s.cfg.debounceWindow) :
    t.keyDown k = s.keyDown k := by
  rw [State.keyDown, State.keyDown, slot, time, window]

/-- A key last pressed at `t` is down exactly within the window, the boundary included. -/
theorem State.keyDown_iff_of_pressed {s : State} {k : Fin 16} {t : Nat} (pressed : s.lastPress[k] = some t) :
    s.keyDown k = true ↔ s.env.now - t ≤ s.cfg.debounceWindow := by
  simp [State.keyDown, isDown_iff, pressed]

/-- Settles O37: the press fills its own slot with `t` and leaves every other slot as it was, and each key is read from
its own slot alone. -/
theorem keyDownWindow : Obligations.KeyDownWindow := by
  intro s k t now draw _
  have slots (j : Fin 16) : ((s.recordPress k.val t).withInputs now draw).lastPress[j] =
      if k.val = j.val then some t else s.lastPress[j] := State.lastPress_recordPress s k.val t j
  refine ⟨?pressedKey, ?otherKeys, State.keyDown_of_never_pressed (s := s.withInputs now draw), rfl⟩
  case pressedKey =>
    have pressed : ((s.recordPress k.val t).withInputs now draw).lastPress[k] = some t :=
      (slots k).trans (if_pos rfl)
    simpa using State.keyDown_iff_of_pressed pressed
  case otherKeys =>
    intro j other
    have kept : ((s.recordPress k.val t).withInputs now draw).lastPress[j] = s.lastPress[j] :=
      (slots j).trans (if_neg (Fin.val_ne_iff.mpr other.symm))
    exact State.keyDown_congr kept (by simp) (by simp)

end Sys2Proof.Machine

/-! PROOFS. The encoding: decoding and encoding are inverse, the rows of the opcode table exclude each other, masks and
matchers agree, and which words are illegal (30_encoding.md). -/

namespace Sys2Proof

open Laws.Classified

/-! ### Decoding an encoded instruction -/

/-- The word of every instruction is classified as its own row. -/
theorem classify_encode (i : Instr) : classify (encode i) = some (tagOf i) := by
  cases i with
  | cls => exact cls
  | ret => exact ret
  | jp nnn => exact jp nnn
  | call nnn => exact call nnn
  | seImm x kk => exact seImm x kk
  | sneImm x kk => exact sneImm x kk
  | seReg x y => exact seReg x y
  | ldImm x kk => exact ldImm x kk
  | addImm x kk => exact addImm x kk
  | ldReg x y => exact ldReg x y
  | orReg x y => exact orReg x y
  | andReg x y => exact andReg x y
  | xorReg x y => exact xorReg x y
  | addReg x y => exact addReg x y
  | subReg x y => exact subReg x y
  | shr x y => exact shr x y
  | subnReg x y => exact subnReg x y
  | shl x y => exact shl x y
  | sneReg x y => exact sneReg x y
  | ldI nnn => exact ldI nnn
  | jpV0 nnn => exact jpV0 nnn
  | rnd x kk => exact rnd x kk
  | drw x y n => exact drw x y n
  | skp x => exact skp x
  | sknp x => exact sknp x
  | ldVxDt x => exact ldVxDt x
  | ldVxK x => exact ldVxK x
  | ldDtVx x => exact ldDtVx x
  | ldStVx x => exact ldStVx x
  | addIVx x => exact addIVx x
  | ldFVx x => exact ldFVx x
  | ldBVx x => exact ldBVx x
  | stRegs x => exact stRegs x
  | ldRegs x => exact ldRegs x

/-- The fields of an instruction's word, under the instruction's tag, are the instruction again. -/
theorem instrOf_fieldsOf_encode (i : Instr) : instrOf (tagOf i) (fieldsOf (encode i)) = i := by
  cases i <;> simp [tagOf, instrOf, encode]

theorem decode_encode (i : Instr) : decode (encode i) = some i := by
  rw [decode, classify_encode, Option.map_some, instrOf_fieldsOf_encode]

theorem encode_injective {i j : Instr} (same : encode i = encode j) : i = j :=
  Option.some.inj (by rw [← decode_encode i, same, decode_encode j])

/-- Settles O1: an instruction's word is classified as its own row, and its fields are read back from the form of that
word. -/
theorem decodeOfEncode : Obligations.DecodeOfEncode := decode_encode

/-! ### Encoding a decoded word -/

/-- A field of a field is a field of the word. -/
theorem extractLsb'_extractLsb'_of_le {v : Nat} (w : BitVec v) {a m b n : Nat} (inside : b + n ≤ m) :
    (w.extractLsb' a m).extractLsb' b n = w.extractLsb' (a + b) n := by
  ext i hi
  have : b + i < m := by omega
  simp [this, Nat.add_assoc]

/-- Two words with the same nibbles are the same word. -/
theorem nibblesOf_inj {w w' : Word} : nibblesOf w = nibblesOf w' ↔ w = w' := by
  refine ⟨fun same => ?_, congrArg nibblesOf⟩
  simp only [nibblesOf, List.cons.injEq, and_true] at same
  obtain ⟨n3, n2, n1, n0⟩ := same
  rw [← word_of_nibbles w, n3, n2, n1, n0, word_of_nibbles]

theorem wordNnn_fieldsOf {w : Word} {op : Nibble} (n3 : w.extractLsb' 12 4 = op) :
    wordNnn op (fieldsOf w).nnn = w := by
  rw [← nibblesOf_inj, nibbles_wordNnn, nibblesOf, n3]
  simp only [fieldsOf, extractLsb'_extractLsb'_of_le, Nat.reduceAdd, Nat.reduceLeDiff]

theorem wordXkk_fieldsOf {w : Word} {op : Nibble} {kk : Byte} (n3 : w.extractLsb' 12 4 = op)
    (n1 : kk.extractLsb' 4 4 = w.extractLsb' 4 4) (n0 : kk.extractLsb' 0 4 = w.extractLsb' 0 4) :
    wordXkk op (fieldsOf w).x kk = w := by
  rw [← nibblesOf_inj, nibbles_wordXkk, nibblesOf, n3, n1, n0, fieldsOf, nibbleOfReg_regOfNibble]

theorem wordXyn_fieldsOf {w : Word} {op n : Nibble} (n3 : w.extractLsb' 12 4 = op) (n0 : w.extractLsb' 0 4 = n) :
    wordXyn op (fieldsOf w).x (fieldsOf w).y n = w := by
  rw [← nibblesOf_inj, nibbles_wordXyn, nibblesOf, n3, n0, fieldsOf, nibbleOfReg_regOfNibble, nibbleOfReg_regOfNibble]

/-- A word that fits a row of four literals has these nibbles. -/
theorem nibblesOf_of_literals {w : Word} {a b c d : Nibble}
    (fits : patternFits [.lit a, .lit b, .lit c, .lit d] (nibblesOf w) = true) : nibblesOf w = [a, b, c, d] := by
  simpa [patternFits, nibblesOf] using fits

/-- A word that fits a row is the word of that row's instruction with the word's own fields: the literals of the row are
the nibbles the encoder puts there, and the fields are the other nibbles. -/
theorem encode_instrOf_of_fits {w : Word} : ∀ r ∈ opcodeTable, patternFits r.pattern (nibblesOf w) = true →
    encode (instrOf r.tag (fieldsOf w)) = w := by
  have n0 : w.extractLsb' 0 4 = (fieldsOf w).n := rfl
  have low : (fieldsOf w).kk.extractLsb' 0 4 = w.extractLsb' 0 4 := extractLsb'_extractLsb'_of_le w (by decide)
  have high : (fieldsOf w).kk.extractLsb' 4 4 = w.extractLsb' 4 4 := extractLsb'_extractLsb'_of_le w (by decide)
  simp only [opcodeTable, opcodeRows0to7, opcodeRows8, opcodeRows9toE, opcodeRowsF, List.cons_append, List.nil_append,
    List.forall_mem_cons]
  refine ⟨?cls, ?ret, ?fields⟩
  case cls =>
    intro fits
    rw [← nibblesOf_inj, nibblesOf_of_literals fits]
    change nibblesOf 0x00E0 = [0x0, 0x0, 0xE, 0x0]
    decide
  case ret =>
    intro fits
    rw [← nibblesOf_inj, nibblesOf_of_literals fits]
    change nibblesOf 0x00EE = [0x0, 0x0, 0xE, 0xE]
    decide
  case fields =>
    simp +contextual [patternFits, nibblesOf, Matcher.width, instrOf, encode, wordNnn_fieldsOf, wordXkk_fieldsOf,
      wordXyn_fieldsOf, n0, low, high]

theorem classify_eq_some {w : Word} {t : Tag} (classified : classify w = some t) :
    ∃ r ∈ opcodeTable, patternFits r.pattern (nibblesOf w) = true ∧ r.tag = t := by
  obtain ⟨r, found, tag⟩ := Option.map_eq_some_iff.1 classified
  have fits := List.find?_some found
  exact ⟨r, List.mem_of_find?_eq_some found, fits, tag⟩

theorem encode_of_decode {w : Word} {i : Instr} (decodes : decode w = some i) : encode i = w := by
  obtain ⟨t, classified, rfl⟩ := Option.map_eq_some_iff.1 decodes
  obtain ⟨r, row, fits, rfl⟩ := classify_eq_some classified
  exact encode_instrOf_of_fits r row fits

/-- Settles O2: the word fits the row it is classified as, so it is the word of that row's instruction. -/
theorem encodeOfDecode : Obligations.EncodeOfDecode := fun _ _ => encode_of_decode

/-! ### The rows of the table exclude each other -/

@[simp] theorem tagOf_instrOf (t : Tag) (f : Fields) : tagOf (instrOf t f) = t := by
  cases t <;> rfl

/-- Every row has its own tag. -/
theorem row_eq_of_tag_eq : ∀ p ∈ opcodeTable, ∀ q ∈ opcodeTable, p.tag = q.tag → p = q := by
  decide

/-- Settles O3: a word that fits two rows is the word of both rows' instructions, so these are one instruction, and the
rows have one tag. -/
theorem opcodeRowsDisjoint : Obligations.OpcodeRowsDisjoint := by
  intro w p q rowP rowQ fitsP fitsQ
  have sameWord : encode (instrOf p.tag (fieldsOf w)) = encode (instrOf q.tag (fieldsOf w)) := by
    rw [encode_instrOf_of_fits p rowP fitsP, encode_instrOf_of_fits q rowQ fitsQ]
  have sameTag := congrArg tagOf (encode_injective sameWord)
  exact row_eq_of_tag_eq p rowP q rowQ (by simpa using sameTag)

/-! ### Masks and match values (30_encoding.md R103) -/

/-- A masked word has a value exactly when each masked nibble has the value's nibble. -/
theorem and_eq_iff_nibbles (w mask value : Word) : w &&& mask = value ↔
    w.extractLsb' 12 4 &&& mask.extractLsb' 12 4 = value.extractLsb' 12 4 ∧
    w.extractLsb' 8 4 &&& mask.extractLsb' 8 4 = value.extractLsb' 8 4 ∧
    w.extractLsb' 4 4 &&& mask.extractLsb' 4 4 = value.extractLsb' 4 4 ∧
    w.extractLsb' 0 4 &&& mask.extractLsb' 0 4 = value.extractLsb' 0 4 := by
  rw [← nibblesOf_inj]
  simp [nibblesOf, BitVec.extractLsb'_and]

/-- The mask keeps exactly the nibbles at which a row has a literal. -/
theorem maskMatches_iff_fits (w : Word) :
    ∀ r ∈ opcodeTable, r.maskMatches w = true ↔ patternFits r.pattern (nibblesOf w) = true := by
  have whole (n : Nibble) : n &&& 15#4 = n := BitVec.and_allOnes
  simp only [opcodeTable, List.forall_mem_append, and_assoc]
  refine ⟨?_, ?_, ?_, ?_⟩
  · simp [opcodeRows0to7, Row.maskMatches, patternMask, patternValue, Matcher.width, patternFits, nibblesOf,
      and_eq_iff_nibbles, whole]
  · simp [opcodeRows8, Row.maskMatches, patternMask, patternValue, Matcher.width, patternFits, nibblesOf,
      and_eq_iff_nibbles, whole]
  · simp [opcodeRows9toE, Row.maskMatches, patternMask, patternValue, Matcher.width, patternFits, nibblesOf,
      and_eq_iff_nibbles, whole]
  · simp [opcodeRowsF, Row.maskMatches, patternMask, patternValue, Matcher.width, patternFits, nibblesOf,
      and_eq_iff_nibbles, whole]

/-- Settles O4: row by row, the masked nibbles are the literals' nibbles. -/
theorem maskMatchAgreesWithMatchers : Obligations.MaskMatchAgreesWithMatchers :=
  fun w r row => Bool.eq_iff_iff.2 (maskMatches_iff_fits w r row)

/-! ### The illegal words (30_encoding.md R106) -/

theorem decode_eq_none_iff (w : Word) :
    decode w = none ↔ ∀ r ∈ opcodeTable, patternFits r.pattern (nibblesOf w) = false := by
  simp only [decode, classify, Option.map_eq_none_iff, List.find?_eq_none, Bool.not_eq_true]

/-- The rows that a word must miss to be illegal, by its first nibble (30_encoding.md R106). -/
theorem no_row_fits_iff (n3 n2 n1 n0 : Nibble) :
    (∀ r ∈ opcodeTable, patternFits r.pattern [n3, n2, n1, n0] = false) ↔
    (n3 = 0x0 ∧ ¬ (n2 = 0x0 ∧ n1 = 0xE ∧ n0 = 0x0) ∧ ¬ (n2 = 0x0 ∧ n1 = 0xE ∧ n0 = 0xE)) ∨
    (n3 = 0x5 ∧ n0 ≠ 0x0) ∨
    (n3 = 0x8 ∧ (n0 = 0x8 ∨ n0 = 0x9 ∨ n0 = 0xA ∨ n0 = 0xB ∨ n0 = 0xC ∨ n0 = 0xD ∨ n0 = 0xF)) ∨
    (n3 = 0x9 ∧ n0 ≠ 0x0) ∨
    (n3 = 0xE ∧ ¬ (n1 = 0x9 ∧ n0 = 0xE) ∧ ¬ (n1 = 0xA ∧ n0 = 0x1)) ∨
    (n3 = 0xF ∧ ¬ (n1 = 0x0 ∧ n0 = 0x7) ∧ ¬ (n1 = 0x0 ∧ n0 = 0xA) ∧ ¬ (n1 = 0x1 ∧ n0 = 0x5) ∧
      ¬ (n1 = 0x1 ∧ n0 = 0x8) ∧ ¬ (n1 = 0x1 ∧ n0 = 0xE) ∧ ¬ (n1 = 0x2 ∧ n0 = 0x9) ∧ ¬ (n1 = 0x3 ∧ n0 = 0x3) ∧
      ¬ (n1 = 0x5 ∧ n0 = 0x5) ∧ ¬ (n1 = 0x6 ∧ n0 = 0x5)) := by
  have values : ∀ n : Nibble, n = 0x0 ∨ n = 0x1 ∨ n = 0x2 ∨ n = 0x3 ∨ n = 0x4 ∨ n = 0x5 ∨ n = 0x6 ∨ n = 0x7 ∨ n = 0x8 ∨
      n = 0x9 ∨ n = 0xA ∨ n = 0xB ∨ n = 0xC ∨ n = 0xD ∨ n = 0xE ∨ n = 0xF := by decide
  have rows8 : ¬n0 = 0x0#4 ∧ ¬n0 = 0x1#4 ∧ ¬n0 = 0x2#4 ∧ ¬n0 = 0x3#4 ∧ ¬n0 = 0x4#4 ∧ ¬n0 = 0x5#4 ∧ ¬n0 = 0x6#4 ∧
      ¬n0 = 0x7#4 ∧ ¬n0 = 0xE#4 ↔ n0 = 0x8 ∨ n0 = 0x9 ∨ n0 = 0xA ∨ n0 = 0xB ∨ n0 = 0xC ∨ n0 = 0xD ∨ n0 = 0xF := by
    revert n0
    decide
  simp only [opcodeTable, opcodeRows0to7, opcodeRows8, opcodeRows9toE, opcodeRowsF, List.cons_append, List.nil_append,
    List.forall_mem_cons, patternFits, Matcher.width]
  rcases values n3 with rfl | rfl | rfl | rfl | rfl | rfl | rfl | rfl | rfl | rfl | rfl | rfl | rfl | rfl | rfl | rfl
  all_goals simp [rows8]

/-- The number that two hexadecimal digits make has these digits. -/
theorem two_digits_eq_iff {a b k : Nat} (hb : b < 16) : 16 * a + b = k ↔ a = k / 16 ∧ b = k % 16 := by
  omega

/-- Settles O5: a word is illegal when its nibbles miss every row, and the digits of its number are its nibbles. -/
theorem illegalWordsExactly : Obligations.IllegalWordsExactly := by
  intro w
  have value : w.toNat = 256 * (16 * (w.extractLsb' 12 4).toNat + (w.extractLsb' 8 4).toNat) +
      (16 * (w.extractLsb' 4 4).toNat + (w.extractLsb' 0 4).toNat) := by
    rw [← joinNibbles_toNat, ← joinNibbles_toNat, ← joinBytes_toNat, word_of_nibbles]
  rw [decode_eq_none_iff, nibblesOf, no_row_fits_iff]
  generalize w.extractLsb' 12 4 = n3 at *
  generalize w.extractLsb' 8 4 = n2 at *
  generalize w.extractLsb' 4 4 = n1 at *
  generalize w.extractLsb' 0 4 = n0 at *
  have lt3 : n3.toNat < 16 := n3.isLt
  have lt2 : n2.toNat < 16 := n2.isLt
  have lt1 : n1.toNat < 16 := n1.isLt
  have lt0 : n0.toNat < 16 := n0.isLt
  have first : w.toNat / 4096 = n3.toNat := by omega
  have last : w.toNat % 16 = n0.toNat := by omega
  have lastTwo : w.toNat % 256 = 16 * n1.toNat + n0.toNat := by omega
  have firstZero : (n3.toNat = 0 ∧ ¬w.toNat = 0x00E0 ∧ ¬w.toNat = 0x00EE) ↔ n3.toNat = 0 ∧
      ¬(n2.toNat = 0 ∧ n1.toNat = 14 ∧ n0.toNat = 0) ∧ ¬(n2.toNat = 0 ∧ n1.toNat = 14 ∧ n0.toNat = 14) := by omega
  simp only [first, last, lastTwo, two_digits_eq_iff lt0, firstZero, ne_eq, ← BitVec.toNat_inj, BitVec.toNat_ofNat,
    BitVec.ofNat_eq_ofNat, Nat.reducePow, Nat.reduceMod, Nat.reduceDiv]

/-- Settles O6, by running the decoder on each word. -/
theorem writtenWordsDecode : Obligations.WrittenWordsDecode := by
  unfold Obligations.WrittenWordsDecode
  decide

end Sys2Proof

/-! PROOFS. What each instruction that checks something answers when the check holds and when it fails. -/

namespace Sys2Proof.Machine

theorem exec_call_of_room {s : State} (nnn : Addr12) (room : s.sp.val < 16) :
    exec (.call nnn) s = .next ((s.push (s.pc + 2) room).setPc (zextAddr nnn)) := dif_pos room

theorem exec_call_of_full {s : State} (nnn : Addr12) (full : ¬ s.sp.val < 16) :
    exec (.call nnn) s = .next (s.halt (.stackOverflow (encode (.call nnn)))) := dif_neg full

theorem exec_ret_of_live {s : State} (live : 0 < s.sp.val) : exec .ret s = .next (s.drop.setPc (s.top live)) :=
  dif_pos live

theorem exec_ret_of_empty {s : State} (empty : ¬ 0 < s.sp.val) :
    exec .ret s = .next (s.halt (.stackUnderflow (encode .ret))) := dif_neg empty

theorem exec_skp_of_key {s : State} {x : Reg} {k : Fin 16} (key : keyOfByte (s.readV x) = some k) :
    exec (.skp x) s = .next (s.skipIf (s.keyDown k)) := by
  simp only [exec, execSkp, key]

theorem exec_skp_of_no_key {s : State} {x : Reg} (noKey : keyOfByte (s.readV x) = none) :
    exec (.skp x) s = .next (s.halt (.undefinedOperand (.keyIndex (s.readV x)) (encode (.skp x)))) := by
  simp only [exec, execSkp, noKey, State.raise]

theorem exec_sknp_of_key {s : State} {x : Reg} {k : Fin 16} (key : keyOfByte (s.readV x) = some k) :
    exec (.sknp x) s = .next (s.skipIf (!s.keyDown k)) := by
  simp only [exec, execSknp, key]

theorem exec_sknp_of_no_key {s : State} {x : Reg} (noKey : keyOfByte (s.readV x) = none) :
    exec (.sknp x) s = .next (s.halt (.undefinedOperand (.keyIndex (s.readV x)) (encode (.sknp x)))) := by
  simp only [exec, execSknp, noKey, State.raise]

theorem exec_ldVxK_of_key {s : State} {k : Fin 16} (x : Reg) (key : s.lowestKeyDown = some k) :
    exec (.ldVxK x) s = .next (s.writeV x (BitVec.ofNat 8 k.val)).advance := by
  simp only [exec, execLdVxK, key]

theorem exec_ldVxK_of_no_key {s : State} (x : Reg) (noKey : s.lowestKeyDown = none) : exec (.ldVxK x) s = .next s := by
  simp only [exec, execLdVxK, noKey]

/-- A checked access whose check passes has its effect. -/
theorem State.guarded_of_passed {s : State} {check : Option AccessFault} (w : Word) (effect : State)
    (passed : check = none) : s.guarded check w effect = .next effect := by
  rw [passed, State.guarded]

/-- A checked access whose check fails halts. -/
theorem State.guarded_of_failed {s : State} {check : Option AccessFault} {f : AccessFault} (w : Word) (effect : State)
    (failed : check = some f) : s.guarded check w effect = .next (s.halt (f.cause w)) := by
  rw [failed, State.guarded, State.raise]

end Sys2Proof.Machine

/-! PROOFS. What an instruction leaves unchanged (10_state.md, 20_memory.md section 1, 60_exceptions.md section 2), and
what a step of each agent can change. -/

namespace Sys2Proof.Machine

/-! ### The frame of an instruction -/

/-- What an instruction that ran left unchanged, field by field: the "written by" column of 10_state.md R38. -/
structure RunFrame (i : Instr) (s t : State) : Prop where
  status : t.status = s.status
  pc : redirects i = false → t.pc = s.pc + 2
  regs : ∀ r, mayWriteV i r = false → t.readV r = s.readV r
  mem : (∀ x, i ≠ .ldBVx x) → (∀ x, i ≠ .stRegs x) → t.mem = s.mem
  stack : (∀ nnn, i ≠ .call nnn) → t.stack = s.stack
  sp : (∀ nnn, i ≠ .call nnn) → i ≠ .ret → t.sp = s.sp
  dt : (∀ x, i ≠ .ldDtVx x) → t.dt = s.dt
  st : (∀ x, i ≠ .ldStVx x) → t.st = s.st
  back : i ≠ .cls → (∀ x y n, i ≠ .drw x y n) → t.back = s.back ∧ t.dirty = s.dirty
  front : t.front = s.front
  index : (∀ nnn, i ≠ .ldI nnn) → (∀ x, i ≠ .addIVx x ∧ i ≠ .ldFVx x) →
    (s.cfg.loadStoreIncrement = true → ∀ x, i ≠ .stRegs x ∧ i ≠ .ldRegs x) → t.i = s.i
  host : t.lastPress = s.lastPress ∧ t.cfg = s.cfg ∧ t.env = s.env

/-- An instruction that ran wrote within its frame. -/
theorem Ran.frame {i : Instr} {s t : State} (ran : Ran i s t) : RunFrame i s t := by
  cases i <;> simp only [Ran] at ran
  case ret | call | ldBVx =>
    obtain ⟨_, rfl⟩ := ran
    constructor <;> simp [redirects, mayWriteV]
  case skp | sknp =>
    obtain ⟨_, _, rfl⟩ := ran
    constructor <;> simp [redirects, mayWriteV]
  case stRegs | ldRegs =>
    obtain ⟨_, rfl⟩ := ran
    constructor <;> simp +contextual [redirects, mayWriteV, State.indexAfterBlock]
  case drw =>
    obtain ⟨_, _, _, _, _, _, _, _, rfl⟩ := ran
    constructor <;> simp +contextual [redirects, mayWriteV]
  case ldVxK =>
    obtain ⟨_, rfl⟩ | ⟨_, _, rfl⟩ := ran
    all_goals constructor <;> simp +contextual [redirects, mayWriteV]
  all_goals
    subst ran
    constructor <;> simp +contextual [redirects, mayWriteV]

/-- Settles O49: an instruction that ran and does not redirect advances the PC, and one that halted leaves no running
core. -/
theorem advanceByTwo : Obligations.AdvanceByTwo := by
  intro i s t straight _ answers runs
  obtain ⟨c, rfl⟩ | ran := exec_next answers
  · cases runs
  · exact ran.frame.pc straight

/-- Settles O50: an instruction that ran keeps STATUS, and one that halted changes nothing else. -/
theorem haltIsPrecise : Obligations.HaltIsPrecise := by
  intro i s
  obtain ⟨t, answers⟩ := exec_total i s
  refine ⟨t, answers, ?_⟩
  obtain ⟨c, rfl⟩ | ran := exec_next answers
  · exact .inr ⟨c, rfl⟩
  · exact .inl ran.frame.status

/-- Settles O52: an instruction that halted changes no register, and one that ran keeps those outside its frame. -/
theorem registerFrame : Obligations.RegisterFrame := by
  intro i s t r answers other
  obtain ⟨c, rfl⟩ | ran := exec_next answers
  · exact State.halt_readV s c r
  · exact ran.frame.regs r other

/-- Settles O54: a halt changes STATUS alone, and an instruction that ran keeps what its frame names. -/
theorem specialRegisterFrame : Obligations.SpecialRegisterFrame := by
  intro i s t answers
  obtain ⟨c, rfl⟩ | ran := exec_next answers
  · simp
  · obtain ⟨-, -, -, -, stack, sp, dt, st, back, front, index, host⟩ := ran.frame
    exact ⟨stack, sp, dt, st, back, front, index, host⟩

/-! ### The bytes an instruction may store to -/

/-- What an instruction that ran did to memory: nothing, or a run of bytes stored from I on, every address of it checked
before the first byte moved (20_memory.md R81). -/
theorem Ran.mem_or_stored {i : Instr} {s t : State} (ran : Ran i s t) :
    t.mem = s.mem ∨ ∃ bs : List Byte, 0 < bs.length ∧ checkWrite s.cfg (s.dataAddr 0) bs.length = none ∧
      t.mem = (s.writeBytes (s.dataAddr 0) bs).mem ∧
      ((∃ x, i = .ldBVx x ∧ bs.length = 3) ∨ ∃ x : Reg, i = .stRegs x ∧ bs.length = x.val + 1) := by
  by_cases bcd : ∃ x, i = .ldBVx x
  · obtain ⟨x, rfl⟩ := bcd
    obtain ⟨checked, rfl⟩ := ran
    exact .inr ⟨bcdDigits (s.readV x), by simp [bcdDigits], checked, rfl, .inl ⟨x, rfl, rfl⟩⟩
  by_cases block : ∃ x, i = .stRegs x
  · obtain ⟨x, rfl⟩ := block
    obtain ⟨checked, rfl⟩ := ran
    have length := s.length_blockRegs x
    exact .inr ⟨s.blockRegs x, by omega, by rwa [length], rfl, .inr ⟨x, rfl, length⟩⟩
  · exact .inl (ran.frame.mem (not_exists.1 bcd) (not_exists.1 block))

/-- A byte read depends on memory and the font alone. -/
theorem State.readByte_congr {s t : State} {a : Nat} (cfg : t.cfg = s.cfg) (mem : t.mem = s.mem) :
    t.readByte a = s.readByte a := by
  rw [State.readByte, State.readByte, cfg, mem]

/-- Settles O53: an address outside the bytes named is outside the run of bytes stored. -/
theorem memoryFrame : Obligations.MemoryFrame := by
  intro i s t answers a noDigit noReg
  obtain ⟨c, rfl⟩ | ran := exec_next answers
  · exact State.halt_readByte s c a
  obtain ⟨-, cfg, -⟩ := ran.frame.host
  obtain mem | ⟨bs, -, -, mem, stores⟩ := ran.mem_or_stored
  · exact State.readByte_congr cfg mem
  have outside : ¬ (s.dataAddr 0 ≤ a ∧ a - s.dataAddr 0 < bs.length) := by
    rintro ⟨above, below⟩
    have addr : a = s.dataAddr (a - s.dataAddr 0) := by
      simp only [State.dataAddr] at above ⊢
      omega
    obtain ⟨x, rfl, length⟩ | ⟨x, rfl, length⟩ := stores
    · exact noDigit x rfl _ (by omega) addr
    · exact noReg x rfl _ (by omega) addr
  rw [State.readByte_congr (s := s.writeBytes (s.dataAddr 0) bs) (by simp [cfg]) mem, State.readByte_writeBytes,
    dif_neg outside]

/-! ### The environment's inputs -/

/-- What an instruction answers, with other inputs of the environment in the state it answers. -/
def withEnv (e : Env) : Outcome → Outcome
  | .next t => .next { t with env := e }
  | .fault f => .fault f
  | .refused r => .refused r

/-- A guarded effect does not depend on the environment's inputs. -/
theorem State.guarded_withEnv (s effect : State) (check : Option AccessFault) (w : Word) (e : Env) :
    State.guarded { s with env := e } check w { effect with env := e } = withEnv e (s.guarded check w effect) := by
  cases check <;> rfl

theorem State.lowestKeyDown_withEnv {s : State} {e : Env} (now : e.now = s.env.now) :
    ({ s with env := e } : State).lowestKeyDown = s.lowestKeyDown := by
  have keys : ({ s with env := e } : State).keyDown = s.keyDown := funext fun k => State.keyDown_congr rfl now rfl
  rw [State.lowestKeyDown, keys, State.lowestKeyDown]

/-- An instruction answers the same with other inputs, but for the inputs themselves, when they have the random byte if
it is RND and the time if it reads the keys. -/
theorem exec_withEnv (i : Instr) (s : State) (e : Env) (draw : (∃ x kk, i = .rnd x kk) → e.draw = s.env.draw)
    (now : (∃ x, i = .skp x ∨ i = .sknp x ∨ i = .ldVxK x) → e.now = s.env.now) :
    exec i { s with env := e } = withEnv e (exec i s) := by
  cases i
  case rnd x kk =>
    rw [exec, execRnd, draw ⟨x, kk, rfl⟩]
    rfl
  case skp x =>
    cases key : keyOfByte (s.readV x) with
    | some k =>
      have down := State.keyDown_congr (s := s) (t := { s with env := e }) (k := k) rfl (now ⟨x, by simp⟩) rfl
      rw [exec_skp_of_key (s := { s with env := e }) key, exec_skp_of_key key, down]
      rfl
    | none => rw [exec_skp_of_no_key (s := { s with env := e }) key, exec_skp_of_no_key key]; rfl
  case sknp x =>
    cases key : keyOfByte (s.readV x) with
    | some k =>
      have down := State.keyDown_congr (s := s) (t := { s with env := e }) (k := k) rfl (now ⟨x, by simp⟩) rfl
      rw [exec_sknp_of_key (s := { s with env := e }) key, exec_sknp_of_key key, down]
      rfl
    | none => rw [exec_sknp_of_no_key (s := { s with env := e }) key, exec_sknp_of_no_key key]; rfl
  case ldVxK x =>
    have keys := State.lowestKeyDown_withEnv (s := s) (e := e) (now ⟨x, by simp⟩)
    cases key : s.lowestKeyDown with
    | some k => rw [exec_ldVxK_of_key x (keys.trans key), exec_ldVxK_of_key x key]; rfl
    | none => rw [exec_ldVxK_of_no_key x (keys.trans key), exec_ldVxK_of_no_key x key]; rfl
  case ret =>
    by_cases live : 0 < s.sp.val
    · rw [exec_ret_of_live (s := { s with env := e }) live, exec_ret_of_live live]; rfl
    · rw [exec_ret_of_empty (s := { s with env := e }) live, exec_ret_of_empty live]; rfl
  case call nnn =>
    by_cases room : s.sp.val < 16
    · rw [exec_call_of_room (s := { s with env := e }) nnn room, exec_call_of_room nnn room]; rfl
    · rw [exec_call_of_full (s := { s with env := e }) nnn room, exec_call_of_full nnn room]; rfl
  case drw x y n =>
    simp only [exec, execDrw]
    split
    · rw [State.readBytes_withEnv, ← State.guarded_withEnv]
      rfl
    · rfl
  case ldBVx x =>
    rw [exec, exec, execLdBVx, State.writeBytes_withEnv, execLdBVx, ← State.guarded_withEnv]
    rfl
  case stRegs x =>
    rw [exec, exec, execStRegs, State.writeBytes_withEnv, execStRegs, ← State.guarded_withEnv]
    rfl
  case ldRegs x =>
    rw [exec, exec, execLdRegs, execLdRegs, ← State.guarded_withEnv]
    rfl
  all_goals rfl

/-- Settles O55: either new input is one that the instruction does not read. -/
theorem inputsReadOnlyWhereSaid : Obligations.InputsReadOnlyWhereSaid := by
  intro i s t now draw answers
  have env : t.env = s.env := by
    obtain ⟨c, rfl⟩ | ran := exec_next answers
    · exact State.halt_env s c
    · obtain ⟨-, -, env⟩ := ran.frame.host
      exact env
  rw [env]
  constructor
  · intro notRnd
    have other := exec_withEnv i s { s.env with draw := draw } (fun ⟨x, kk, h⟩ => (notRnd x kk h).elim) fun _ => rfl
    rwa [answers] at other
  · intro notKey
    have other := exec_withEnv i s { s.env with now := now } (fun _ => rfl) fun ⟨x, h⟩ => by simp_all
    rwa [answers] at other

/-! ### The steps of the agents -/

theorem step_of_no_turn {s : State} (free : s.env.schedule = []) : step s = s.withFreeInputs.execStep := by
  rw [step, State.nextTurn, free]

theorem step_of_turn {s : State} {turn : Turn} {rest : List Turn} (next : s.env.schedule = turn :: rest) :
    step s = s.takeTurn turn rest := by
  rw [step, State.nextTurn, next]

theorem State.execStep_of_decode {s : State} {w : Word} {i : Instr} (running : s.status = .running)
    (fetched : s.fetch = .ok w) (decoded : decode w = some i) : s.execStep = exec i s := by
  simp only [State.execStep, running, fetched, decoded]

theorem State.execStep_of_halted {s : State} {c : Cause} {pc : Word} (halted : s.status = .halted c pc) :
    s.execStep = .fault (.halted c pc) := by
  simp only [State.execStep, halted]

/-- A fetch depends on the PC and memory alone. -/
theorem State.fetch_congr {s t : State} (pc : t.pc = s.pc) (cfg : t.cfg = s.cfg) (mem : t.mem = s.mem) :
    t.fetch = s.fetch := by
  simp only [State.fetch, pc, State.readByte_congr cfg mem]

/-- A press changes the key slots alone. -/
theorem State.recordPress_eq (s : State) (k time : Nat) :
    s.recordPress k time = { s with lastPress := (s.recordPress k time).lastPress } := by
  unfold State.recordPress
  split <;> rfl

/-- The next state of a step is that of the Executor, from a state that differs in the environment's inputs alone, or
differs from the state before in what the other agents write: the timers, the key slots, FRONT, DIRTY and the turns
left. -/
theorem step_execStep_or_frame {s t : State} (steps : step s = .next t) :
    (∃ e, State.execStep { s with env := e } = .next t) ∨
    ∃ dt st front dirty lastPress env,
      t = { s with dt := dt, st := st, front := front, dirty := dirty, lastPress := lastPress, env := env } := by
  obtain ⟨-, steps⟩ | ⟨now, draw, rest, -, -, steps⟩ | ⟨rest, -, rfl⟩ | ⟨k, time, rest, -, -, rfl⟩ | ⟨rest, -, rfl⟩ :=
    step_next steps
  · exact .inl ⟨_, steps⟩
  · exact .inl ⟨_, steps⟩
  · exact .inr ⟨_, _, _, _, _, _, rfl⟩
  · exact .inr ⟨_, _, _, _, _, _, State.recordPress_eq _ k time⟩
  · exact .inr ⟨_, _, _, _, _, _, rfl⟩

end Sys2Proof.Machine

/-! PROOFS. The invariant every step keeps, halted and parked cores (60_exceptions.md sections 2 and 6). -/

namespace Sys2Proof.Machine

/-! ### Each part of the invariant after an instruction ran -/

theorem Ran.keeps_memory_wf {i : Instr} {s t : State} (ran : Ran i s t) (wf : Memory.wf s.cfg s.mem) :
    Memory.wf t.cfg t.mem := by
  obtain ⟨-, cfg, -⟩ := ran.frame.host
  rw [cfg]
  obtain mem | ⟨bs, pos, checked, mem, -⟩ := ran.mem_or_stored
  · rwa [mem]
  · rw [mem]
    exact State.wf_writeBytes s _ bs ((checkWrite_eq_none pos).1 checked).1 wf

/-- Under the policy `fault`, every byte stored lies above the reserved region. -/
theorem Ran.keeps_reserved {i : Instr} {s t : State} (ran : Ran i s t) (kept : s.ReservedKept) : t.ReservedKept := by
  intro policy a low
  obtain ⟨-, cfg, -⟩ := ran.frame.host
  rw [cfg] at policy ⊢
  rw [← kept policy a low]
  obtain mem | ⟨bs, pos, checked, mem, -⟩ := ran.mem_or_stored
  · exact State.readByte_congr cfg mem
  · have above := ((checkWrite_eq_none pos).1 checked).2 policy
    rw [State.readByte_congr (s := s.writeBytes (s.dataAddr 0) bs) (by simp [cfg]) mem, State.readByte_writeBytes,
      dif_neg (by omega)]

/-- Entries that stay live stay aligned. -/
theorem State.ReturnsAligned.of_le {s t : State} (aligned : s.ReturnsAligned) (stack : t.stack = s.stack)
    (sp : t.sp.val ≤ s.sp.val) : t.ReturnsAligned := by
  intro k live
  rw [stack]
  exact aligned k (by omega)

/-- The address after a word that was fetched is even and at most 0x1000 (40_control_flow.md R132). -/
theorem State.next_pc_aligned {s : State} {w : Word} (fetched : s.fetch = .ok w) :
    (s.pc + 2).toNat % 2 = 0 ∧ (s.pc + 2).toNat ≤ 0x1000 := by
  obtain ⟨even, inside, -⟩ := State.fetch_ok fetched
  simp only [memSize] at inside
  rw [BitVec.toNat_add]
  simp only [BitVec.reduceToNat]
  omega

theorem State.ReturnsAligned.push {s : State} {a : Word} (aligned : s.ReturnsAligned) (room : s.sp.val < 16)
    (even : a.toNat % 2 = 0) (inside : a.toNat ≤ 0x1000) : (s.push a room).ReturnsAligned := by
  intro k live
  simp only [State.push_sp] at live
  simp only [State.push_stack, Fin.getElem_fin, Vector.getElem_set]
  split
  · exact ⟨even, inside⟩
  · exact aligned k (by omega)

theorem Ran.keeps_returns {i : Instr} {s t : State} {w : Word} (ran : Ran i s t) (fetched : s.fetch = .ok w)
    (aligned : s.ReturnsAligned) : t.ReturnsAligned := by
  by_cases call : ∃ nnn, i = .call nnn
  · obtain ⟨nnn, rfl⟩ := call
    obtain ⟨room, rfl⟩ := ran
    obtain ⟨even, inside⟩ := State.next_pc_aligned fetched
    exact aligned.push room even inside
  have notCall := not_exists.1 call
  by_cases ret : i = .ret
  · subst ret
    obtain ⟨live, rfl⟩ := ran
    exact aligned.of_le rfl (Nat.sub_le _ _)
  · exact aligned.of_le (ran.frame.stack notCall) (ran.frame.sp notCall ret).le

/-! ### The invariant -/

theorem State.Inv.halt {s : State} (inv : s.Inv) (c : Cause) : (s.halt c).Inv where
  memory := inv.memory
  reserved := inv.reserved
  returns := inv.returns
  haltAtPc := fun c' pc halted => by
    cases halted
    rfl

theorem Ran.keeps_inv {i : Instr} {s t : State} {w : Word} (ran : Ran i s t) (running : s.status = .running)
    (fetched : s.fetch = .ok w) (inv : s.Inv) : t.Inv where
  memory := ran.keeps_memory_wf inv.memory
  reserved := ran.keeps_reserved inv.reserved
  returns := ran.keeps_returns fetched inv.returns
  haltAtPc := fun c pc halted => by
    rw [ran.frame.status, running] at halted
    cases halted

theorem State.execStep_keeps_inv {s t : State} (steps : s.execStep = .next t) (inv : s.Inv) : t.Inv := by
  obtain ⟨running, ⟨c, -, rfl⟩ | ⟨w, -, -, rfl⟩ | ⟨w, i, fetched, -, answers⟩⟩ := State.execStep_next steps
  · exact inv.halt c
  · exact inv.halt (.illegalOpcode w)
  · obtain ⟨c, rfl⟩ | ran := exec_next answers
    · exact inv.halt c
    · exact ran.keeps_inv running fetched inv

/-- The invariant does not speak of the environment's inputs. -/
theorem State.Inv.withEnv {s : State} (inv : s.Inv) (e : Env) : ({ s with env := e } : State).Inv :=
  ⟨inv.memory, inv.reserved, inv.returns, inv.haltAtPc⟩

/-- Settles O59: the Executor's step keeps each part of the invariant, and the other agents write nothing that it speaks
of. -/
theorem stepKeepsInvariant : Obligations.StepKeepsInvariant := by
  intro s t inv steps
  obtain ⟨e, execSteps⟩ | ⟨dt, st, front, dirty, lastPress, env, rfl⟩ := step_execStep_or_frame steps
  · exact State.execStep_keeps_inv execSteps (inv.withEnv e)
  · exact ⟨inv.memory, inv.reserved, inv.returns, inv.haltAtPc⟩

/-! ### Halted cores -/

/-- Settles O48: the Executor has no step from a halted core, and the other agents do not write STATUS. -/
theorem haltIsTerminal : Obligations.HaltIsTerminal := by
  intro s c pc halted
  refine ⟨State.execStep_of_halted halted, fun t steps => ?_⟩
  obtain ⟨e, execSteps⟩ | ⟨dt, st, front, dirty, lastPress, env, rfl⟩ := step_execStep_or_frame steps
  · rw [State.execStep_of_halted (s := { s with env := e }) halted] at execSteps
    cases execSteps
  · exact halted

/-! ### Parked cores (60_exceptions.md R305) -/

/-- A core parked stays so when the PC, memory and STATUS stay. -/
theorem State.Parked.congr {s t : State} (parked : s.Parked) (pc : t.pc = s.pc) (cfg : t.cfg = s.cfg)
    (mem : t.mem = s.mem) (status : t.status = s.status) : t.Parked := by
  obtain ⟨running, w, nnn, fetched, decoded, self⟩ := parked
  exact ⟨status.trans running, w, nnn, (State.fetch_congr pc cfg mem).trans fetched, decoded, self.trans pc.symm⟩

/-- The Executor's step of a parked core changes nothing. -/
theorem State.Parked.execStep {s : State} (parked : s.Parked) : s.execStep = .next s := by
  obtain ⟨running, w, nnn, fetched, decoded, self⟩ := parked
  rw [State.execStep_of_decode running fetched decoded, exec, execJp, self]
  rfl

/-- Settles O60: the Executor's step of a parked core changes nothing, and the other agents write nothing that the
statement speaks of. -/
theorem parkedStaysParked : Obligations.ParkedStaysParked := by
  intro s t parked steps
  obtain ⟨e, execSteps⟩ | ⟨dt, st, front, dirty, lastPress, env, rfl⟩ := step_execStep_or_frame steps
  · have parked' : ({ s with env := e } : State).Parked := parked.congr rfl rfl rfl rfl
    rw [parked'.execStep] at execSteps
    injection execSteps with same
    subst same
    exact ⟨parked', rfl, rfl, fun _ => rfl, fun _ => rfl, ⟨rfl, rfl⟩, rfl⟩
  · exact ⟨parked.congr rfl rfl rfl rfl, rfl, rfl, fun _ => rfl, fun _ => rfl, ⟨rfl, rfl⟩, rfl⟩

/-! ### Creation -/

/-- The core right after creation, for any choice of the parameters, meets the invariant. -/
theorem State.created_inv (c : Config) : (State.created c).Inv where
  memory := Memory.wf_nil c
  reserved := fun _ a _ => Memory.read_nil c a
  returns := fun _ live => absurd live (Nat.not_lt_zero _)
  haltAtPc := fun _ _ halted => by cases halted

/-- Settles O58: it is the core created with the default parameters. -/
theorem resetMeetsInvariant : Obligations.ResetMeetsInvariant := State.created_inv Config.default

/-- Where no store has reached, the font stands at FONT_BASE (10_state.md R44). -/
theorem Memory.unlisted_font (c : Config) {k : Nat} (inside : k < 80) :
    Memory.unlisted c (c.fontBase.val + k) = c.font[k] := by
  simp [Memory.unlisted, inside]

theorem Memory.unlisted_of_outside_font {c : Config} {a : Nat}
    (outside : a < c.fontBase.val ∨ c.fontBase.val + 80 ≤ a) : Memory.unlisted c a = 0 :=
  dif_neg (by omega)

@[simp] theorem State.created_readByte (c : Config) (a : Nat) :
    (State.created c).readByte a = Memory.unlisted c a := rfl

/-- A program created with stands from 0x200 on. -/
theorem State.readByte_loaded (c : Config) {program : List Byte} {k : Nat} (inside : k < program.length) :
    ((State.created c).writeBytes programStart program).readByte (programStart + k) = program[k] := by
  rw [State.readByte_writeBytes, dif_pos ⟨Nat.le_add_right _ _, by omega⟩]
  simp only [Nat.add_sub_cancel_left]

/-- Outside the program, memory is as at creation. -/
theorem State.readByte_loaded_of_outside (c : Config) {program : List Byte} {a : Nat}
    (outside : a < programStart ∨ programStart + program.length ≤ a) :
    ((State.created c).writeBytes programStart program).readByte a = Memory.unlisted c a := by
  rw [State.readByte_writeBytes, dif_neg (by omega), State.created_readByte]

/-- A program that fits keeps the invariant: it lies above the reserved region and inside memory. -/
theorem State.loaded_inv (c : Config) {program : List Byte} (fits : program.length ≤ maxProgram) :
    ((State.created c).writeBytes programStart program).Inv where
  memory := by
    rw [State.writeBytes_cfg]
    exact State.wf_writeBytes _ _ program (Nat.add_le_add_left fits programStart) (Memory.wf_nil c)
  reserved := fun _ a low => by
    rw [State.readByte_loaded_of_outside c (.inl low), State.writeBytes_cfg, State.created]
  returns := (State.created_inv c).returns.of_le (by simp) (by simp)
  haltAtPc := fun _ _ halted => by
    rw [State.writeBytes_status] at halted
    cases halted

/-- Settles O57: the program is a run of bytes stored from 0x200 on into the core just created. -/
theorem createLoadsProgram : Obligations.CreateLoadsProgram := by
  intro c program
  constructor
  · intro fits
    exact ⟨_, if_pos fits, fun k inside => State.readByte_loaded c inside,
      fun a outside => State.readByte_loaded_of_outside c outside, by simp [State.created], by simp [State.created],
      by simp [State.created], State.loaded_inv c fits⟩
  · intro long
    exact if_neg (Nat.not_le.2 long)

/-- Settles O56: each register by its definition, and memory by what an unlisted address reads as. -/
theorem resetValues : Obligations.ResetValues := by
  have registers (r : Reg) : State.reset.readV r = 0 := by simp [State.readV, State.reset, State.created]
  have stack (k : Fin 16) : State.reset.stack[k] = 0 := by simp [State.reset, State.created]
  have keys (k : Fin 16) : State.reset.lastPress[k] = none := by simp [State.reset, State.created]
  have font (k : Fin 80) := Memory.unlisted_font Config.default k.isLt
  have zero (a : Nat) := Memory.unlisted_of_outside_font (c := Config.default) (a := a)
  have blank (x y : Nat) : State.reset.getPixel .back x y = false ∧ State.reset.getPixel .front x y = false :=
    ⟨Plane.pixel_blank x y, Plane.pixel_blank x y⟩
  exact ⟨registers, rfl, rfl, rfl, stack, rfl, rfl, font, zero, blank, rfl, keys, rfl⟩

end Sys2Proof.Machine

/-! PROOFS. The register and ALU instructions (41_register_alu.md). -/

namespace Sys2Proof.Machine

/-! ### What the register instructions leave unchanged -/

/-- A state in which only the general registers, I and the PC are new. -/
theorem State.sameButRegs_update (s : State) (v : Vector Byte 16) (i pc : Word) :
    s.SameButRegs { s with v := v, i := i, pc := pc } :=
  ⟨fun _ => rfl, ⟨rfl, rfl⟩, ⟨rfl, rfl⟩, ⟨rfl, rfl, rfl⟩, ⟨rfl, rfl, rfl, rfl⟩⟩

/-- An instruction that writes one register and advances. -/
theorem completesWithRegs_of_writeV {i : Instr} {s : State} {x : Reg} {b : Byte} {f : Reg → Nat}
    (answers : exec i s = .next (s.writeV x b).advance)
    (result : ∀ r, (if r = x then b.toNat else (s.readV r).toNat) = f r) : CompletesWithRegs i s f := by
  refine ⟨_, answers, fun r => ?_, rfl, rfl, s.sameButRegs_update _ _ _⟩
  rw [← result, State.advance_readV, State.readV_writeV, apply_ite BitVec.toNat]

/-- An instruction that writes a result and then the flag, and advances. -/
theorem completesWithRegs_of_writeResultFlag {i : Instr} {s : State} {x : Reg} {b : Byte} {flag : Bool} {f : Reg → Nat}
    (answers : exec i s = .next (s.writeResultFlag x b flag).advance)
    (result : ∀ r, (if r = VF then if flag then 1 else 0 else if r = x then b.toNat else (s.readV r).toNat) = f r) :
    CompletesWithRegs i s f := by
  refine ⟨_, answers, fun r => ?_, rfl, rfl, s.sameButRegs_update _ _ _⟩
  rw [← result, State.advance_readV, State.readV_writeResultFlag, apply_ite BitVec.toNat, apply_ite BitVec.toNat,
    flagByte_toNat]

/-! ### The words of instructions as numbers (30_encoding.md R104) -/

theorem wordNnn_ofNat {op : Nibble} {nnn : Addr12} {n : Nat} (number : 0x1000 * op.toNat + nnn.toNat = n) :
    wordNnn op nnn = BitVec.ofNat 16 n := number ▸ wordNnn_eq_ofNat op nnn

theorem wordXkk_ofNat {op : Nibble} {x : Reg} {kk : Byte} {n : Nat}
    (number : 0x1000 * op.toNat + 0x100 * x.val + kk.toNat = n) : wordXkk op x kk = BitVec.ofNat 16 n :=
  number ▸ wordXkk_eq_ofNat op x kk

/-- A word whose second byte is a literal of its row. -/
theorem wordXkk_literal_ofNat {op : Nibble} {x : Reg} {kk : Byte} {n : Nat}
    (number : 0x1000 * op.toNat + kk.toNat = n) : wordXkk op x kk = BitVec.ofNat 16 (n + 0x100 * x.val) :=
  wordXkk_ofNat (by omega)

theorem wordXyn_ofNat {op : Nibble} {x y : Reg} {k : Nibble} {n : Nat}
    (number : 0x1000 * op.toNat + 0x100 * x.val + 0x10 * y.val + k.toNat = n) : wordXyn op x y k = BitVec.ofNat 16 n :=
  number ▸ wordXyn_eq_ofNat op x y k

theorem decode_of_encode_eq {i : Instr} {w : Word} (word : encode i = w) : decode w = some i := by
  rw [← word, decode_encode]

/-! ### Loads and the ALU -/

/-- Settles O7: one register is written, with the immediate. -/
theorem loadImmediateResult : Obligations.LoadImmediateResult := by
  intro s x kk
  exact ⟨decode_of_encode_eq (wordXkk_ofNat (by simp)), completesWithRegs_of_writeV rfl fun _ => rfl⟩

/-- Settles O8: one register is written, with the other's value. -/
theorem registerCopyResult : Obligations.RegisterCopyResult := by
  intro s x y
  exact ⟨decode_of_encode_eq (wordXyn_ofNat (by simp)), completesWithRegs_of_writeV rfl fun _ => rfl⟩

/-- Settles O9: one register is written, with the sum, and no flag. -/
theorem addImmediateResult : Obligations.AddImmediateResult := by
  intro s x kk
  refine ⟨decode_of_encode_eq (wordXkk_ofNat (by simp)), completesWithRegs_of_writeV rfl fun r => ?_⟩
  rw [BitVec.toNat_add]

/-- Settles O10: one register is written, with the bitwise result, and no flag. -/
theorem bitwiseResults : Obligations.BitwiseResults := by
  intro s x y
  refine ⟨completesWithRegs_of_writeV rfl fun r => ?_, completesWithRegs_of_writeV rfl fun r => ?_,
    completesWithRegs_of_writeV rfl fun r => ?_⟩
  · rw [BitVec.toNat_or]
  · rw [BitVec.toNat_and]
  · rw [BitVec.toNat_xor]

/-- Settles O11: the sum is written, then the carry. -/
theorem addWithCarryResult : Obligations.AddWithCarryResult := by
  intro s x y
  refine completesWithRegs_of_writeResultFlag rfl fun r => ?_
  rw [BitVec.toNat_add]
  simp [carryOut]

theorem toNat_sub_byte (a b : Byte) : (a - b).toNat = (a.toNat + 256 - b.toNat) % 256 := by
  rw [BitVec.toNat_sub]
  omega

/-- Settles O12: the difference modulo 256 is written, then the flag. -/
theorem subtractResults : Obligations.SubtractResults := by
  intro s x y
  constructor
  · refine completesWithRegs_of_writeResultFlag rfl fun r => ?_
    simp only [toNat_sub_byte, noBorrow, decide_eq_true_eq]
  · refine completesWithRegs_of_writeResultFlag rfl fun r => ?_
    simp only [toNat_sub_byte, noBorrow, decide_eq_true_eq]

theorem State.shiftOperand_eq (s : State) (x y : Reg) :
    s.shiftOperand x y = s.readV (if s.cfg.shiftSource = .vx then x else y) := by
  unfold State.shiftOperand
  cases s.cfg.shiftSource <;> rfl

theorem shiftedOutRight_toNat (b : Byte) : (if shiftedOutRight b then 1 else 0) = b.toNat % 2 := by
  rw [shiftedOutRight, BitVec.getLsbD, Nat.testBit_zero]
  rcases Nat.mod_two_eq_zero_or_one b.toNat with bit | bit <;> simp [bit]

theorem shiftedOutLeft_toNat (b : Byte) : (if shiftedOutLeft b then 1 else 0) = b.toNat / 128 := by
  rw [shiftedOutLeft, BitVec.getLsbD, Nat.testBit_eq_decide_div_mod_eq]
  have high : b.toNat / 128 = 0 ∨ b.toNat / 128 = 1 := by omega
  rcases high with bit | bit <;> simp [bit]

/-- Settles O13: the operand that SHIFT_SOURCE picks is shifted and written, then the bit shifted out. -/
theorem shiftResults : Obligations.ShiftResults := by
  intro s x y
  constructor
  · refine completesWithRegs_of_writeResultFlag rfl fun r => ?_
    rw [shiftedOutRight_toNat, BitVec.toNat_ushiftRight, Nat.shiftRight_eq_div_pow, State.shiftOperand_eq]
  · refine completesWithRegs_of_writeResultFlag rfl fun r => ?_
    rw [shiftedOutLeft_toNat, BitVec.toNat_shiftLeft, Nat.shiftLeft_eq, State.shiftOperand_eq]

/-- Settles O14: one register is written, with the byte that stands in the environment's inputs. -/
theorem randomIsMaskedDraw : Obligations.RandomIsMaskedDraw := by
  intro s x kk draw
  refine completesWithRegs_of_writeV rfl fun r => ?_
  rw [BitVec.toNat_and]
  rfl

/-! ### The timer copies -/

/-- Settles O15: DT alone is written, and a timer at 0 stays there. -/
theorem setDelayTimerResult : Obligations.SetDelayTimerResult := by
  intro s x
  have word : encode (.ldDtVx x) = BitVec.ofNat 16 (0xF015 + 0x100 * x.val) := wordXkk_literal_ofNat rfl
  have atZero (zero : s.readV x = 0) : (s.setDt (s.readV x)).advance.tickTimers.dt = 0 ∧ s.readV x = 0 := by
    simp [zero, countDown]
  exact ⟨decode_of_encode_eq word, (s.setDt (s.readV x)).advance, rfl, rfl, atZero, rfl, rfl, rfl, fun _ => rfl,
    fun _ => rfl, ⟨rfl, rfl⟩, ⟨rfl, rfl, rfl⟩, ⟨rfl, rfl, rfl, rfl⟩⟩

/-- Settles O16: DT goes to one register, and ST alone is written. -/
theorem timerCopyResults : Obligations.TimerCopyResults := by
  intro s x
  exact ⟨completesWithRegs_of_writeV rfl fun _ => rfl, (s.setSt (s.readV x)).advance, rfl, rfl, rfl, rfl, rfl,
    fun _ => rfl, fun _ => rfl, ⟨rfl, rfl⟩, ⟨rfl, rfl, rfl⟩, ⟨rfl, rfl, rfl, rfl⟩⟩

end Sys2Proof.Machine

/-! PROOFS. Control flow and the key instructions (40_control_flow.md, 44_input.md). -/

namespace Sys2Proof.Machine

/-- An instruction that sets the PC alone. -/
theorem completesAtPc_of_setPc {i : Instr} {s : State} {a : Word} {pc : Nat}
    (answers : exec i s = .next (s.setPc a)) (target : a.toNat = pc) : CompletesAtPc i s pc :=
  ⟨_, answers, target, fun _ => rfl, rfl, s.sameButRegs_update _ _ _⟩

/-- The PC after a skip, modulo 2^16 (40_control_flow.md R132). -/
theorem skipIf_pc_toNat (pc : Word) (taken : Bool) :
    (if taken then pc + 4 else pc + 2).toNat = (pc.toNat + if taken then 4 else 2) % 65536 := by
  cases taken
  · exact BitVec.toNat_add pc 2
  · exact BitVec.toNat_add pc 4

/-- A conditional skip whose condition is `p`. -/
theorem completesAtPc_of_skipIf {i : Instr} {s : State} {taken : Bool} {p : Prop} [Decidable p]
    (answers : exec i s = .next (s.skipIf taken)) (condition : taken = true ↔ p) :
    CompletesAtPc i s ((s.pc.toNat + if p then 4 else 2) % 65536) :=
  completesAtPc_of_setPc answers (by rw [skipIf_pc_toNat]; simp only [condition])

/-- A conditional skip taken when `p` does not hold. -/
theorem completesAtPc_of_skipIf_not {i : Instr} {s : State} {taken : Bool} {p : Prop} [Decidable p]
    (answers : exec i s = .next (s.skipIf taken)) (condition : taken = true ↔ ¬ p) :
    CompletesAtPc i s ((s.pc.toNat + if p then 2 else 4) % 65536) := by
  rw [← ite_not]
  exact completesAtPc_of_skipIf answers condition

theorem zextAddr_toNat (nnn : Addr12) : (zextAddr nnn).toNat = nnn.toNat := by
  rw [zextAddr, BitVec.toNat_setWidth]
  have := nnn.isLt
  omega

/-! ### Fetch (20_memory.md R76) -/

theorem State.fetch_of_odd {s : State} (odd : s.pc.toNat % 2 = 1) : s.fetch = .error .misalignedPC :=
  if_pos odd

theorem State.fetch_of_outside {s : State} (even : s.pc.toNat % 2 = 0) (outside : 0x1000 ≤ s.pc.toNat + 1) :
    s.fetch = .error (.addressOutOfRange s.pc.toNat none) := by
  rw [State.fetch, memSize, if_neg (by omega), if_pos outside]

theorem State.fetch_of_even {s : State} (even : s.pc.toNat % 2 = 0) (inside : s.pc.toNat + 1 < 0x1000) :
    s.fetch = .ok (joinBytes (s.readByte s.pc.toNat) (s.readByte (s.pc.toNat + 1))) := by
  rw [State.fetch, memSize, if_neg (by omega), if_neg (Nat.not_le.2 inside)]

/-- Settles O47: the three outcomes of a fetch, and the two bytes as a number. -/
theorem fetchBigEndian : Obligations.FetchBigEndian := by
  intro s
  exact ⟨State.fetch_of_odd, State.fetch_of_outside,
    fun even inside => ⟨_, State.fetch_of_even even inside, joinBytes_toNat _ _⟩⟩

/-! ### Jumps -/

/-- Settles O17: the PC alone is set, to an address below 0x1000, which decides the next fetch by its parity. -/
theorem jumpResult : Obligations.JumpResult := by
  intro s nnn
  have word : encode (.jp nnn) = BitVec.ofNat 16 (0x1000 + nnn.toNat) := wordNnn_ofNat (by simp)
  have target : (s.setPc (zextAddr nnn)).pc.toNat = nnn.toNat := zextAddr_toNat nnn
  have small := nnn.isLt
  refine ⟨decode_of_encode_eq word, s.setPc (zextAddr nnn), rfl, target, fun _ => rfl, rfl, s.sameButRegs_update _ _ _,
    fun odd => State.fetch_of_odd (target ▸ odd), fun even => ?_⟩
  rw [State.fetch_of_even (by omega) (by omega), target]
  rfl

/-- Settles O22: the sum of a 12-bit and an 8-bit number does not reach 2^16. -/
theorem offsetJumpResult : Obligations.OffsetJumpResult := by
  intro s nnn
  refine completesAtPc_of_setPc rfl ?_
  have small := nnn.isLt
  have offset := (s.readV 0).isLt
  rw [State.offsetTarget, BitVec.toNat_add, zextAddr_toNat, BitVec.toNat_setWidth]
  omega

/-! ### Call and return -/

theorem State.push_stack_getElem (s : State) (a : Word) (room : s.sp.val < 16) (k : Fin 16) :
    (s.push a room).stack[k] = if k.val = s.sp.val then a else s.stack[k] := by
  simp only [State.push_stack, Fin.getElem_fin, Vector.getElem_set, eq_comm]

/-- Settles O18: the entry at SP is written and the others are not. -/
theorem callResult : Obligations.CallResult := by
  intro s nnn room
  exact ⟨_, exec_call_of_room nnn room, zextAddr_toNat nnn, rfl, s.push_stack_getElem _ room, fun _ => rfl, rfl,
    fun _ => rfl, ⟨rfl, rfl⟩, ⟨rfl, rfl, rfl⟩, ⟨rfl, rfl, rfl, rfl⟩⟩

/-- The most recent live entry, by its index. -/
theorem State.top_eq {s : State} {k : Fin 16} (live : 0 < s.sp.val) (top : s.sp.val = k.val + 1) :
    s.top live = s.stack[k] := by
  simp [State.top, top]

/-- Settles O19: the entry on top is the one below SP. -/
theorem returnResult : Obligations.ReturnResult := by
  intro s k top
  have live : 0 < s.sp.val := by omega
  exact ⟨_, exec_ret_of_live live, State.top_eq live top, by simp [top], rfl, fun _ => rfl, rfl, fun _ => rfl,
    ⟨rfl, rfl⟩, ⟨rfl, rfl, rfl⟩, ⟨rfl, rfl, rfl, rfl⟩⟩

/-- Settles O20: neither check of the stack holds, and the words are those of the encoder. -/
theorem stackBoundsHalt : Obligations.StackBoundsHalt := by
  intro s nnn
  have word : encode (.call nnn) = BitVec.ofNat 16 (0x2000 + nnn.toNat) := wordNnn_ofNat (by simp)
  constructor
  · intro full
    rw [HaltsWith, exec_call_of_full nnn (by omega), word]
    rfl
  · intro empty
    exact exec_ret_of_empty (by omega)

/-- Settles O21: the entry on top is the one the call pushed, and the entries below it were not written. -/
theorem callThenReturn : Obligations.CallThenReturn := by
  intro s t u nnn room answers stack sp
  rw [exec_call_of_room nnn room] at answers
  injection answers with answers
  subst answers
  have depth : u.sp.val = s.sp.val + 1 := congrArg Fin.val sp
  have entries (k : Fin 16) : u.stack[k] = if k.val = s.sp.val then s.pc + 2 else s.stack[k] :=
    stack ▸ s.push_stack_getElem (s.pc + 2) room k
  have live : 0 < u.sp.val := by omega
  refine ⟨_, exec_ret_of_live live, ?pc, ?sp, fun k below => ?below⟩
  case pc => exact (State.top_eq (k := ⟨s.sp.val, room⟩) live depth).trans ((entries _).trans (if_pos rfl))
  case sp => exact Fin.ext (by simp [depth])
  case below => exact (entries k).trans (if_neg (by omega))

/-! ### Conditional skips -/

/-- Settles O23: both are skips on one condition, taken when it holds and when it does not. -/
theorem skipImmediateResults : Obligations.SkipImmediateResults := by
  intro s x kk
  have condition : (s.readV x).toNat = kk.toNat ↔ s.readV x = kk := BitVec.toNat_inj
  exact ⟨decode_of_encode_eq (wordXkk_ofNat (by simp)), decode_of_encode_eq (wordXkk_ofNat (by simp)),
    completesAtPc_of_skipIf rfl (by simp [condition]), completesAtPc_of_skipIf_not rfl (by simp [condition])⟩

/-- Of the words that compare two registers, those whose last nibble is not 0 are illegal (30_encoding.md R106). -/
theorem decode_compare_registers {i : Instr} {base : Nat} {x y : Reg} (compare : base = 0x5000 ∨ base = 0x9000)
    (word : encode i = BitVec.ofNat 16 (base + 0x100 * x.val + 0x10 * y.val)) (n : Nibble) :
    decode (BitVec.ofNat 16 (base + 0x100 * x.val + 0x10 * y.val + n.toNat)) = if n = 0 then some i else none := by
  split
  case isTrue zero =>
    subst zero
    exact decode_of_encode_eq word
  case isFalse notZero =>
    have last : n.toNat ≠ 0 := fun h => notZero (BitVec.eq_of_toNat_eq h)
    have small : n.toNat < 16 := n.isLt
    refine (illegalWordsExactly _).2 ?_
    rw [BitVec.toNat_ofNat, Nat.mod_eq_of_lt (by omega)]
    rcases compare with rfl | rfl
    · exact .inr (.inl ⟨by omega, by omega⟩)
    · exact .inr (.inr (.inr (.inl ⟨by omega, by omega⟩)))

/-- Settles O24: both are skips on one condition, and a last nibble that is not 0 is in the table of illegal words. -/
theorem skipRegisterResults : Obligations.SkipRegisterResults := by
  intro s x y
  have condition : (s.readV x).toNat = (s.readV y).toNat ↔ s.readV x = s.readV y := BitVec.toNat_inj
  exact ⟨completesAtPc_of_skipIf rfl (by simp [condition]), completesAtPc_of_skipIf_not rfl (by simp [condition]),
    decode_compare_registers (.inl rfl) (wordXyn_ofNat (by simp)),
    decode_compare_registers (.inr rfl) (wordXyn_ofNat (by simp))⟩

/-! ### Keys (44_input.md section 2) -/

theorem keyOfByte_of_toNat_eq {b : Byte} {k : Fin 16} (index : b.toNat = k.val) : keyOfByte b = some k := by
  have inside : b.toNat < 16 := index ▸ k.isLt
  rw [keyOfByte, dif_pos inside]
  exact congrArg some (Fin.ext index)

theorem keyOfByte_of_large {b : Byte} (large : 15 < b.toNat) : keyOfByte b = none :=
  dif_neg (by omega)

/-- Settles O38: V[x] names the key, and both are skips on whether it is down. -/
theorem skipKeyResults : Obligations.SkipKeyResults := by
  intro s x k index
  have key := keyOfByte_of_toNat_eq index
  exact ⟨completesAtPc_of_skipIf (exec_skp_of_key key) Iff.rfl,
    completesAtPc_of_skipIf_not (exec_sknp_of_key key) (by simp)⟩

/-- Settles O39: V[x] names no key. -/
theorem keyIndexHalts : Obligations.KeyIndexHalts := by
  intro s x large
  have noKey := keyOfByte_of_large large
  have skpWord : encode (.skp x) = BitVec.ofNat 16 (0xE09E + 0x100 * x.val) := wordXkk_literal_ofNat rfl
  have sknpWord : encode (.sknp x) = BitVec.ofNat 16 (0xE0A1 + 0x100 * x.val) := wordXkk_literal_ofNat rfl
  rw [← skpWord, ← sknpWord]
  exact ⟨exec_skp_of_no_key noKey, exec_sknp_of_no_key noKey⟩

/-- The smallest key that is down is the one LD Vx, K finds. -/
theorem State.lowestKeyDown_of_smallest {s : State} {k : Fin 16} (down : s.keyDown k = true)
    (smallest : ∀ j, j < k → s.keyDown j = false) : s.lowestKeyDown = some k := by
  cases found : s.lowestKeyDown with
  | none => exact absurd down (by simp [State.lowestKeyDown_eq_none.1 found k])
  | some j =>
    obtain ⟨downJ, smallestJ⟩ := State.lowestKeyDown_eq_some found
    obtain below | same | above := lt_trichotomy j k
    · exact absurd downJ (by simp [smallest j below])
    · rw [same]
    · exact absurd down (by simp [smallestJ k above])

/-- Settles O40: the key found is the smallest that is down. -/
theorem waitKeyTakesLowest : Obligations.WaitKeyTakesLowest := by
  intro s x k down smallest
  have key := State.lowestKeyDown_of_smallest down smallest
  refine completesWithRegs_of_writeV (exec_ldVxK_of_key x key) fun r => ?_
  rw [BitVec.toNat_ofNat, Nat.mod_eq_of_lt (by omega)]

/-- Settles O41: no key is found. -/
theorem waitKeyWaits : Obligations.WaitKeyWaits :=
  fun _ x noneDown => exec_ldVxK_of_no_key x (State.lowestKeyDown_eq_none.2 noneDown)

end Sys2Proof.Machine

/-! PROOFS. The index register and the memory instructions (42_index_memory.md). -/

namespace Sys2Proof.Machine

/-! ### The index register -/

/-- An instruction that sets I and advances. -/
theorem completesWithIndex_of_setI {i : Instr} {s : State} {a : Word} {n : Nat}
    (answers : exec i s = .next (s.setI a).advance) (index : a.toNat = n) : CompletesWithIndex i s n :=
  ⟨_, answers, index, rfl, fun _ => rfl, s.sameButRegs_update _ _ _⟩

/-- Settles O25: I alone is set, to the address. -/
theorem loadIndexResult : Obligations.LoadIndexResult := by
  intro s nnn
  exact ⟨decode_of_encode_eq (wordNnn_ofNat (by simp)), completesWithIndex_of_setI rfl (zextAddr_toNat nnn)⟩

theorem toNat_setWidth_byte (b : Byte) : (b.setWidth 16).toNat = b.toNat := by
  rw [BitVec.toNat_setWidth]
  omega

/-- Settles O26: I alone is set, to the sum modulo 2^16. -/
theorem addIndexResult : Obligations.AddIndexResult := by
  intro s x
  refine completesWithIndex_of_setI rfl ?_
  rw [State.indexPlus, BitVec.toNat_add, toNat_setWidth_byte]

/-- The low nibble of a byte as a number. -/
theorem low_nibble_toNat (b : Byte) : (b &&& 0xF).toNat = b.toNat % 16 := by
  rw [BitVec.toNat_and]
  exact Nat.and_two_pow_sub_one_eq_mod b.toNat 4

/-- Settles O27: the font ends below 2^16, and the glyph's rows lie inside the font. -/
theorem glyphAddressResult : Obligations.GlyphAddressResult := by
  intro s x
  refine ⟨completesWithIndex_of_setI rfl ?_, fun row inside => ?_⟩
  · rw [State.glyphAddr, BitVec.toNat_ofNat, low_nibble_toNat]
    omega
  · rw [Nat.add_assoc]
    exact Memory.unlisted_font s.cfg (by omega)

/-! ### Accesses that pass their check -/

/-- I after a block access that ends inside memory, as a number (42_index_memory.md R204, R205). -/
theorem State.indexAfterBlock_toNat {s : State} {x : Reg} (inside : s.i.toNat + x.val + 1 ≤ 0x1000) :
    (s.indexAfterBlock x).toNat = if s.cfg.loadStoreIncrement then s.i.toNat + x.val + 1 else s.i.toNat := by
  unfold State.indexAfterBlock
  split
  · rw [BitVec.toNat_add, BitVec.toNat_ofNat]
    omega
  · rfl

theorem checkWrite_passes {s : State} {n : Nat} (pos : 0 < n) (inside : s.i.toNat + n ≤ 0x1000)
    (writable : s.cfg.reservedWrite = .fault → 0x200 ≤ s.i.toNat) : checkWrite s.cfg (s.dataAddr 0) n = none :=
  (checkWrite_eq_none pos).2 ⟨inside, writable⟩

theorem checkRead_passes {s : State} {n : Nat} (pos : 0 < n) (inside : s.i.toNat + n ≤ 0x1000) :
    checkRead (s.dataAddr 0) n = none :=
  (checkRead_eq_none pos).2 inside

/-- The byte at `dataAddr k` after a run of bytes is stored from I on. -/
theorem State.readByte_stored (s : State) {bs : List Byte} {k : Nat} (inside : k < bs.length) :
    (s.writeBytes (s.dataAddr 0) bs).readByte (s.dataAddr k) = bs[k] := by
  have offset : s.dataAddr k - s.dataAddr 0 = k := by simp [State.dataAddr]
  have above : s.dataAddr 0 ≤ s.dataAddr k := by simp [State.dataAddr]
  rw [State.readByte_writeBytes, dif_pos ⟨above, by omega⟩]
  simp only [offset]

/-- A byte that is at no `dataAddr k` of the run stored is as before. -/
theorem State.readByte_not_stored (s : State) {bs : List Byte} {a : Nat}
    (outside : ∀ k, k < bs.length → a ≠ s.dataAddr k) :
    (s.writeBytes (s.dataAddr 0) bs).readByte a = s.readByte a := by
  rw [State.readByte_writeBytes, dif_neg]
  rintro ⟨above, inside⟩
  refine outside _ inside ?_
  simp only [State.dataAddr] at above ⊢
  omega

theorem exec_ldBVx_of_passed {s : State} {x : Reg} (passed : checkWrite s.cfg (s.dataAddr 0) 3 = none) :
    exec (.ldBVx x) s = .next (s.writeBytes (s.dataAddr 0) (bcdDigits (s.readV x))).advance :=
  State.guarded_of_passed _ _ passed

theorem exec_stRegs_of_passed {s : State} {x : Reg} (passed : checkWrite s.cfg (s.dataAddr 0) (x.val + 1) = none) :
    exec (.stRegs x) s =
      .next ((s.writeBytes (s.dataAddr 0) (s.blockRegs x)).setI (s.indexAfterBlock x)).advance :=
  State.guarded_of_passed _ _ passed

theorem exec_ldRegs_of_passed {s : State} {x : Reg} (passed : checkRead (s.dataAddr 0) (x.val + 1) = none) :
    exec (.ldRegs x) s = .next ((s.loadBlock (s.dataAddr 0) x).setI (s.indexAfterBlock x)).advance :=
  State.guarded_of_passed _ _ passed

/-- Settles O28: the check passes, and the run of bytes stored is the three digits. -/
theorem bcdStoreResult : Obligations.BcdStoreResult := by
  intro s x inside writable
  have passed := checkWrite_passes (by decide) inside writable
  have digit {k : Nat} (h : k < 3) := s.readByte_stored (bs := bcdDigits (s.readV x)) h
  have others (a : Nat) (ne0 : a ≠ s.dataAddr 0) (ne1 : a ≠ s.dataAddr 1) (ne2 : a ≠ s.dataAddr 2) :=
    s.readByte_not_stored (bs := bcdDigits (s.readV x)) (a := a) fun k (h : k < 3) => by
      interval_cases k <;> assumption
  have small := (s.readV x).isLt
  refine ⟨_, exec_ldBVx_of_passed passed, ?hundreds, ?tens, ?ones, others, by simp, by simp, fun r => by simp,
    by simp [State.SameStack], by simp [State.SameTimers], by simp [State.SameDisplay], by simp [State.SameHost]⟩
  case hundreds => exact (congrArg BitVec.toNat (digit (k := 0) (by decide))).trans (Nat.mod_eq_of_lt (by omega))
  case tens => exact (congrArg BitVec.toNat (digit (k := 1) (by decide))).trans (Nat.mod_eq_of_lt (by omega))
  case ones => exact (congrArg BitVec.toNat (digit (k := 2) (by decide))).trans (Nat.mod_eq_of_lt (by omega))

/-- A store of a block: V[k] at `dataAddr k`. -/
theorem State.readByte_block_stored (s : State) {x k : Reg} (inside : k ≤ x) :
    (s.writeBytes (s.dataAddr 0) (s.blockRegs x)).readByte (s.dataAddr k.val) = s.readV k := by
  have within : k.val < (s.blockRegs x).length := by
    rw [State.length_blockRegs]
    exact Nat.lt_succ_of_le inside
  rw [State.readByte_stored s within, State.getElem_blockRegs]

/-- Settles O29: the check passes, and the run of bytes stored is the block of registers. -/
theorem blockStoreResult : Obligations.BlockStoreResult := by
  intro s x inside writable
  have passed := checkWrite_passes (n := x.val + 1) (by omega) inside writable
  refine ⟨_, exec_stRegs_of_passed passed, fun k le => s.readByte_block_stored le, fun a outside => ?others,
    State.indexAfterBlock_toNat inside, by simp, fun r => by simp, by simp [State.SameStack],
    by simp [State.SameTimers], by simp [State.SameDisplay], by simp [State.SameHost]⟩
  case others =>
    refine s.readByte_not_stored fun k within => ?_
    rw [State.length_blockRegs] at within
    exact outside ⟨k, by omega⟩ (by rw [Fin.le_def]; exact Nat.le_of_lt_succ within)

/-- Settles O30: the check passes, and each register of the block takes the byte at its place. -/
theorem blockLoadResult : Obligations.BlockLoadResult := by
  intro s x inside
  have passed := checkRead_passes (n := x.val + 1) (by omega) inside
  refine ⟨_, exec_ldRegs_of_passed passed, fun k => ?_, State.indexAfterBlock_toNat inside, by simp,
    s.sameButRegs_update _ _ _⟩
  rw [State.advance_readV, State.setI_readV, State.readV_loadBlock]
  rfl

/-- Settles O31: the load reads each byte where the store put it, and its check passes since the store's did. -/
theorem blockStoreLoadRoundTrip : Obligations.BlockStoreLoadRoundTrip := by
  intro s t u v x tRuns stores mem cfg uRuns index loads
  obtain ⟨c, rfl⟩ | ran := exec_next stores
  · cases tRuns
  obtain ⟨passed, rfl⟩ := ran
  obtain ⟨inside, -⟩ := (checkWrite_eq_none (by omega)).1 passed
  have readable : checkRead (u.dataAddr 0) (x.val + 1) = none :=
    checkRead_passes (by omega) (by rw [index]; exact inside)
  rw [exec_ldRegs_of_passed readable] at loads
  injection loads with loads
  subst loads
  refine ⟨by simp [uRuns], fun k le => ?_⟩
  have kept : u.readByte (u.dataAddr 0 + k.val) =
      (s.writeBytes (s.dataAddr 0) (s.blockRegs x)).readByte (s.dataAddr k.val) := by
    rw [State.dataAddr, index]
    exact State.readByte_congr cfg mem
  rw [State.advance_readV, State.setI_readV, State.readV_loadBlock, if_pos le, kept, State.readByte_block_stored s le]

/-- Settles O51: the PC after the store is I, where V0 and V1 were stored. -/
theorem storeIsFetchedNext : Obligations.StoreIsFetchedNext := by
  intro s t x two index even _ stores tRuns
  obtain ⟨c, rfl⟩ | ran := exec_next stores
  · cases tRuns
  obtain ⟨passed, rfl⟩ := ran
  have inside : s.i.toNat + (x.val + 1) ≤ 0x1000 := ((checkWrite_eq_none (by omega)).1 passed).1
  have pc : (((s.writeBytes (s.dataAddr 0) (s.blockRegs x)).setI (s.indexAfterBlock x)).advance).pc = s.i := by
    simp [index]
  have evenIndex : s.i.toNat % 2 = 0 := by
    rw [index, BitVec.toNat_add]
    simp only [BitVec.reduceToNat]
    omega
  rw [State.fetch_of_even (by rwa [pc]) (by rw [pc]; omega), pc]
  have first := s.readByte_block_stored (x := x) (k := 0) (Fin.zero_le x)
  have second := s.readByte_block_stored (x := x) (k := 1) two
  rw [← first, ← second]
  rfl

end Sys2Proof.Machine

/-! PROOFS. The sprite instruction (43_display.md) and the accesses that fail (60_exceptions.md). -/

namespace Sys2Proof.Machine

/-! ### A sprite drawn twice -/

/-- Drawing a sprite flips each pixel by the sprite's bit, so a second drawing flips it back. -/
theorem drawSprite_drawSprite_plane (p : Plane) {x0 y0 : Nat} {rows : List Byte} (hx : x0 < 64) (hy : y0 < 32)
    (length : rows.length ≤ 32) : (drawSprite (drawSprite p x0 y0 rows).plane x0 y0 rows).plane = p := by
  refine Plane.ext_pixel fun u w hu hw => ?_
  rw [drawSprite_pixel _ rows hx hy length hu hw, drawSprite_pixel p rows hx hy length hu hw, Bool.xor_assoc,
    Bool.xor_self, Bool.xor_false]

/-- The bit of a sprite over the pixel at column `c` of row `r`. -/
theorem spriteBit_at {x0 y0 : Nat} {rows : List Byte} {row : Byte} {r c : Nat} (hx : x0 < 64) (hy : y0 < 32)
    (found : rows[r]? = some row) (hr : r < 32) (hc : c < 8) :
    spriteBit x0 y0 rows ((x0 + c) % 64) ((y0 + r) % 32) = row.getLsbD (7 - c) := by
  have columnAt : ((x0 + c) % 64 + 64 - x0) % 64 = c := by omega
  have rowAt : ((y0 + r) % 32 + 32 - y0) % 32 = r := by omega
  simp [spriteBit, columnAt, rowAt, found, hc]

/-- Where a sprite's bit is set: over the pixel of some row and column of it whose bit is set. -/
theorem spriteBit_eq_true_iff {x0 y0 : Nat} {rows : List Byte} {u w : Nat} (hx : x0 < 64) (hy : y0 < 32) (hu : u < 64)
    (hw : w < 32) : spriteBit x0 y0 rows u w = true ↔ ∃ r c row, rows[r]? = some row ∧ r < 32 ∧ c < 8 ∧
      row.getLsbD (7 - c) = true ∧ u = (x0 + c) % 64 ∧ w = (y0 + r) % 32 := by
  constructor
  · intro set
    simp only [spriteBit, Bool.and_eq_true, decide_eq_true_eq] at set
    obtain ⟨column, set⟩ := set
    split at set
    · rename_i row found
      exact ⟨_, _, row, found, by omega, column, set, by omega, by omega⟩
    · cases set
  · rintro ⟨r, c, row, found, hr, hc, set, rfl, rfl⟩
    rw [spriteBit_at hx hy found hr hc, set]

/-- A byte that is not 0 has a set bit, counted from the left. -/
theorem exists_bit_of_ne_zero {b : Byte} (ne : b ≠ 0) : ∃ c, c < 8 ∧ b.getLsbD (7 - c) = true := by
  by_contra none
  simp only [not_exists, not_and, Bool.not_eq_true] at none
  refine ne (BitVec.eq_of_getLsbD_eq fun i hi => ?_)
  have unset := none (7 - i) (by omega)
  rw [show 7 - (7 - i) = i by omega] at unset
  simpa using unset

/-- Settles O35: on a blank plane the first drawing leaves the sprite's own bits, and the second collides with these. -/
theorem drawTwiceErases : Obligations.DrawTwiceErases := by
  intro p x0 y0 rows hx hy length
  have length' : rows.length ≤ 32 := by omega
  refine ⟨drawSprite_drawSprite_plane p hx hy length', ?_⟩
  rw [drawSprite_collided _ rows hx hy length']
  constructor
  · rintro ⟨u, w, hu, hw, -, set⟩
    obtain ⟨r, c, row, inside, -, -, bit, -, -⟩ := (spriteBit_eq_true_iff hx hy hu hw).1 set
    refine ⟨row, List.mem_of_getElem? inside, ?_⟩
    rintro rfl
    simp at bit
  · rintro ⟨row, member, ne⟩
    obtain ⟨r, inside⟩ := List.getElem?_of_mem member
    obtain ⟨c, hc, bit⟩ := exists_bit_of_ne_zero ne
    obtain ⟨hr, -⟩ := List.getElem?_eq_some_iff.1 inside
    have hu : (x0 + c) % 64 < 64 := Nat.mod_lt _ (by decide)
    have hw : (y0 + r) % 32 < 32 := Nat.mod_lt _ (by decide)
    have set : spriteBit x0 y0 rows ((x0 + c) % 64) ((y0 + r) % 32) = true :=
      (spriteBit_at hx hy inside (by omega) hc).trans bit
    refine ⟨_, _, hu, hw, ?_, set⟩
    rw [drawSprite_pixel _ rows hx hy length' hu hw, Plane.pixel_blank, Bool.false_xor, set]

/-! ### Dxyn -/

/-- The sprite of `Dxyn`: `n` bytes from I on (43_display.md R234). -/
def State.sprite (s : State) (n : Nibble) : List Byte := s.readBytes (s.dataAddr 0) n.toNat

/-- BACK with the sprite of `Dxyn` drawn at V[x], V[y], and whether it collided (43_display.md R240). -/
def State.blit (s : State) (x y : Reg) (n : Nibble) : Blit :=
  drawSprite s.back ((s.readV x).toNat % 64) ((s.readV y).toNat % 32) (s.sprite n)

/-- The state after `Dxyn` ran (43_display.md R240). -/
def State.drawn (s : State) (x y : Reg) (n : Nibble) : State :=
  let drawn := s.drawBack ((s.readV x).toNat % 64) ((s.readV y).toNat % 32) (s.sprite n)
  (drawn.writeFlag (s.blit x y n).collided).advance

theorem exec_drw_of_rows (s : State) (x y : Reg) {n : Nibble} (rows : n ≠ 0) : exec (.drw x y n) s =
    s.guarded (checkRead (s.dataAddr 0) n.toNat) (encode (.drw x y n)) (s.drawn x y n) :=
  if_pos (by simpa [spriteRowsOk] using rows)

theorem exec_drw_empty (s : State) (x y : Reg) :
    exec (.drw x y 0) s = .next (s.halt (.undefinedOperand .emptySprite (encode (.drw x y 0)))) := rfl

/-- Settles O36: the row count is asked for before anything else. -/
theorem emptySpriteHalts : Obligations.EmptySpriteHalts := by
  intro s x y
  have word : encode (.drw x y 0) = BitVec.ofNat 16 (0xD000 + 0x100 * x.val + 0x10 * y.val) := wordXyn_ofNat (by simp)
  rw [← word]
  exact exec_drw_empty s x y

theorem State.length_sprite (s : State) (n : Nibble) : (s.sprite n).length = n.toNat := s.length_readBytes _ _

theorem State.getElem?_sprite (s : State) {n : Nibble} {r : Nat} (inside : r < n.toNat) :
    (s.sprite n)[r]? = some (s.readByte (s.dataAddr r)) := by
  rw [State.sprite, State.getElem?_readBytes, if_pos inside]
  simp [State.dataAddr]

/-- The bit of the sprite of `Dxyn` over a pixel. -/
def State.drawBit (s : State) (x y : Reg) (n : Nibble) (u w : Nat) : Bool :=
  spriteBit ((s.readV x).toNat % 64) ((s.readV y).toNat % 32) (s.sprite n) u w

theorem State.drawBit_at (s : State) (x y : Reg) {n : Nibble} {r c : Nat} (hr : r < n.toNat) (hc : c < 8) :
    s.drawBit x y n (((s.readV x).toNat + c) % 64) (((s.readV y).toNat + r) % 32) =
      (s.readByte (s.dataAddr r)).getLsbD (7 - c) := by
  have small : n.toNat < 16 := n.isLt
  rw [← Nat.mod_add_mod, ← Nat.mod_add_mod (s.readV y).toNat]
  exact spriteBit_at (Nat.mod_lt _ (by decide)) (Nat.mod_lt _ (by decide)) (s.getElem?_sprite hr) (by omega) hc

/-- Where the bit is set, the pixel is that of a row and a column of the sprite. -/
theorem State.exists_of_drawBit {s : State} {x y : Reg} {n : Nibble} {u w : Nat} (hu : u < 64) (hw : w < 32)
    (set : s.drawBit x y n u w = true) : ∃ r c, r < n.toNat ∧ c < 8 ∧
      u = ((s.readV x).toNat + c) % 64 ∧ w = ((s.readV y).toNat + r) % 32 := by
  obtain ⟨r, c, row, found, -, hc, -, eu, ew⟩ :=
    (spriteBit_eq_true_iff (Nat.mod_lt _ (by decide)) (Nat.mod_lt _ (by decide)) hu hw).1 set
  have hr : r < n.toNat := s.length_sprite n ▸ (List.getElem?_eq_some_iff.1 found).1
  exact ⟨r, c, hr, hc, eu.trans (Nat.mod_add_mod _ _ _), ew.trans (Nat.mod_add_mod _ _ _)⟩

theorem State.length_sprite_le (s : State) (n : Nibble) : (s.sprite n).length ≤ 32 := by
  have small := n.isLt
  rw [State.length_sprite]
  omega

theorem State.drawn_getPixel (s : State) (x y : Reg) (n : Nibble) {u w : Nat} (hu : u < 64) (hw : w < 32) :
    (s.drawn x y n).getPixel .back u w = (s.getPixel .back u w ^^ s.drawBit x y n u w) :=
  drawSprite_pixel s.back _ (Nat.mod_lt _ (by decide)) (Nat.mod_lt _ (by decide)) (s.length_sprite_le n) hu hw

/-- The drawing collides where a set pixel lies under a set bit of the sprite. -/
theorem State.blit_collided (s : State) (x y : Reg) (n : Nibble) : (s.blit x y n).collided = true ↔
    ∃ r c, r < n.toNat ∧ c < 8 ∧
      s.getPixel .back (((s.readV x).toNat + c) % 64) (((s.readV y).toNat + r) % 32) = true ∧
      (s.readByte (s.dataAddr r)).getLsbD (7 - c) = true := by
  refine (drawSprite_collided s.back _ (Nat.mod_lt _ (by decide)) (Nat.mod_lt _ (by decide))
    (s.length_sprite_le n)).trans ⟨?_, ?_⟩
  · rintro ⟨u, w, hu, hw, pixel, set⟩
    obtain ⟨r, c, hr, hc, rfl, rfl⟩ := State.exists_of_drawBit hu hw set
    exact ⟨r, c, hr, hc, pixel, (s.drawBit_at x y hr hc).symm.trans set⟩
  · rintro ⟨r, c, hr, hc, pixel, set⟩
    exact ⟨_, _, Nat.mod_lt _ (by decide), Nat.mod_lt _ (by decide), pixel, (s.drawBit_at x y hr hc).trans set⟩

/-- Settles O34: each pixel is flipped by the sprite's bit over it, and only the pixels of the sprite's rows and columns
have one. -/
theorem drawResult : Obligations.DrawResult := by
  intro s x y n rows inside px py bit
  have pos : 0 < n.toNat := Nat.pos_of_ne_zero fun zero => rows (BitVec.eq_of_toNat_eq zero)
  have hu (c : Nat) : px c < 64 := Nat.mod_lt _ (by decide)
  have hw (r : Nat) : py r < 32 := Nat.mod_lt _ (by decide)
  have answers : exec (.drw x y n) s = .next (s.drawn x y n) :=
    (exec_drw_of_rows s x y rows).trans (State.guarded_of_passed _ _ (checkRead_passes pos inside))
  have flag : (s.drawn x y n).readV VF = flagByte (s.blit x y n).collided := by simp [State.drawn]
  refine ⟨_, answers, ?touched, ?untouched, ?collides, ?misses, ?registers, rfl, rfl, rfl, rfl, fun _ => rfl,
    ⟨rfl, rfl⟩, ⟨rfl, rfl⟩, ⟨rfl, rfl, rfl, rfl⟩⟩
  case touched =>
    intro r c hr hc
    rw [State.drawn_getPixel s x y n (hu c) (hw r), State.drawBit_at s x y hr hc]
  case untouched =>
    intro u w hu hw apart
    have unset : s.drawBit x y n u w = false := by
      by_contra set
      obtain ⟨r, c, hr, hc, eu, ew⟩ := State.exists_of_drawBit hu hw (Bool.eq_true_of_not_eq_false set)
      exact apart r c hr hc ⟨eu, ew⟩
    rw [State.drawn_getPixel s x y n hu hw, unset, Bool.xor_false]
  case collides =>
    intro hit
    rw [flag, (s.blit_collided x y n).2 hit]
    rfl
  case misses =>
    intro miss
    rw [flag, Bool.eq_false_of_not_eq_true (mt (s.blit_collided x y n).1 miss)]
    rfl
  case registers =>
    intro reg other
    simp [State.drawn, other]

/-! ### Accesses that fail (60_exceptions.md section 1) -/

/-- A store that starts in the reserved region does not reach the end of memory, and fails at its first address. -/
theorem checkWrite_low {s : State} {n : Nat} (policy : s.cfg.reservedWrite = .fault) (low : s.i.toNat < 0x200)
    (pos : 0 < n) (short : n ≤ 16) : checkWrite s.cfg (s.dataAddr 0) n = some (.reserved s.i.toNat) := by
  have inside : s.i.toNat + n ≤ memSize := by
    simp only [memSize]
    omega
  exact checkWrite_reserved policy low inside pos

/-- Settles O32: each access is checked before its effect, and the check names the first address that fails. -/
theorem accessFaultsHalt : Obligations.AccessFaultsHalt := by
  intro s x y n
  refine ⟨fun past => ?_, fun past => ⟨?_, ?_⟩, fun rows past => ?_, fun policy low => ⟨?_, ?_⟩⟩
  · exact State.guarded_of_failed _ _ (checkWrite_outOfRange past (by decide))
  · exact State.guarded_of_failed _ _ (checkWrite_outOfRange (n := x.val + 1) past (by omega))
  · exact State.guarded_of_failed _ _ (checkRead_eq_some (n := x.val + 1) past (by omega))
  · have pos : 0 < n.toNat := Nat.pos_of_ne_zero fun zero => rows (BitVec.eq_of_toNat_eq zero)
    exact (exec_drw_of_rows s x y rows).trans (State.guarded_of_failed _ _ (checkRead_eq_some past pos))
  · exact State.guarded_of_failed _ _ (checkWrite_low (n := 3) policy low (by decide) (by decide))
  · exact State.guarded_of_failed _ _ (checkWrite_low (n := x.val + 1) policy low (by omega) (by omega))

end Sys2Proof.Machine

/-! PROOFS. The cycle and the agents other than the Executor (40_control_flow.md section 1, 60_exceptions.md). -/

namespace Sys2Proof.Machine

theorem countDown_toNat (b : Byte) : (countDown b).toNat = b.toNat - 1 := by
  unfold countDown
  split
  case isTrue zero => simp [zero]
  case isFalse notZero =>
    have : b.toNat ≠ 0 := fun h => notZero (BitVec.eq_of_toNat_eq h)
    have small := b.isLt
    rw [BitVec.toNat_sub]
    simp only [BitVec.reduceToNat]
    omega

/-- Settles O42: both timers count down in the one turn. -/
theorem tickCountsDown : Obligations.TickCountsDown := by
  intro s rest next
  exact ⟨_, step_of_turn next, countDown_toNat s.dt, countDown_toNat s.st, rfl, rfl, fun _ => rfl, fun _ => rfl,
    ⟨rfl, rfl⟩, ⟨rfl, rfl, rfl⟩, rfl, rfl, rfl, rfl⟩

theorem foldl_max_getD_le {l : List (Option Nat)} {m bound : Nat} (start : m ≤ bound)
    (all : ∀ p, some p ∈ l → p ≤ bound) : l.foldl (fun m t => max m (t.getD 0)) m ≤ bound := by
  induction l generalizing m with
  | nil => exact start
  | cons t l ih =>
    have head : t.getD 0 ≤ bound := by
      cases t with
      | none => exact Nat.zero_le _
      | some p => exact all p List.mem_cons_self
    exact ih (max_le start head) fun p member => all p (List.mem_cons_of_mem _ member)

/-- A bound of every recorded press is one of the latest. -/
theorem State.latestPress_le {s : State} {time : Nat}
    (bound : ∀ (j : Fin 16) (p : Nat), s.lastPress[j] = some p → p ≤ time) : s.latestPress ≤ time := by
  refine foldl_max_getD_le (Nat.zero_le _) fun p member => ?_
  obtain ⟨j, inside, found⟩ := List.getElem_of_mem member
  exact bound ⟨j, by simpa using inside⟩ p (by simpa using found)

/-- Settles O43: the press is accepted, since no recorded press is later, and fills one slot. -/
theorem pressRecords : Obligations.PressRecords := by
  intro s k time rest next bound
  have accepted : s.acceptsPress time = true := decide_eq_true (State.latestPress_le bound)
  have answers : step s = .next ((s.setSchedule rest).recordPress k time) := by
    rw [step_of_turn next, State.takeTurn, if_pos accepted]
  refine ⟨_, answers, fun j => ?_, by simp, by simp, fun r => by simp, fun a => by simp, by simp [State.SameStack],
    by simp [State.SameTimers], by simp [State.SameDisplay], by simp, by simp, by simp⟩
  rw [State.lastPress_recordPress, State.setSchedule_lastPress]
  simp only [eq_comm]

/-- Settles O44: the turn copies BACK to FRONT and clears DIRTY. -/
theorem presentCopies : Obligations.PresentCopies := by
  intro s rest next
  exact ⟨_, step_of_turn next, rfl, fun _ _ => rfl, rfl, rfl, rfl, rfl, fun _ => rfl, fun _ => rfl, ⟨rfl, rfl⟩,
    ⟨rfl, rfl⟩, rfl, rfl, rfl, rfl⟩

/-- Settles O45: the inputs of the step change neither STATUS nor what is fetched. -/
theorem stepRunsDecoded : Obligations.StepRunsDecoded := by
  intro s w i running fetched decoded
  constructor
  · intro free
    rw [step_of_no_turn free]
    exact State.execStep_of_decode running fetched decoded
  · intro now draw rest next afterPress afterStep
    have accepted : s.acceptsNow now = true := by simp [State.acceptsNow, afterPress, afterStep]
    rw [step_of_turn next, State.takeTurn, if_pos accepted]
    exact State.execStep_of_decode running fetched decoded

/-- Settles O46: both are branches of the Executor's step. -/
theorem fetchAndIllegalHalt : Obligations.FetchAndIllegalHalt := by
  intro s running
  constructor
  · intro c raised
    simp only [State.execStep, running, raised]
    rfl
  · intro w fetched illegal
    simp only [State.execStep, running, fetched, illegal]
    rfl

end Sys2Proof.Machine
